-- ==== Sys2Proof/Word.lean ====
section
/-! DEFINITION. The widths of the block's data (00_scope.md R7, R8): all values are unsigned. -/

namespace Sys2Proof

/-- A byte is 8 bits (R8). -/
abbrev Byte := BitVec 8

/-- A word is 16 bits: an op-word (R7 `WORD_BITS`, R8). -/
abbrev Word := BitVec 16

/-- A 10-bit analog code (R7 `ANALOG_BITS`, R64). -/
abbrev Code := BitVec 10

end Sys2Proof
end

