-- ==== Sys2Proof/Syntax.lean ====
section
/-! DEFINITION. The instructions of the block, one constructor per row of spec/opcode_table.json, and the records
that carry them: command-port requests, transport answers and triples (30_encoding.md R55); and the moves of the
external agents (10_state.md R20). -/

namespace Sys2Proof

/-- The block's "instructions" (R1): requests, transport answers, and UNPACK. -/
inductive Instr where
  /-- RESET (R125). -/
  | reset
  /-- SEND: `N` and `words[0..N)`, frame order (R78). -/
  | send (n : Nat) (words : List Word)
  /-- ACCEPT: `m` and `bytes[0..m)`, arrival order (R91). -/
  | accept (m : Nat) (bytes : List Byte)
  /-- DISCARD (R99). -/
  | discard
  /-- STOP (R100). -/
  | stop
  /-- ENCODE: any natural register address, an 8-bit value (R76, R69). -/
  | encode (reg : Nat) (val : Byte)
  /-- XFER.WROTE: the transport accepted the first `k` offered bytes (R73, R79). -/
  | xferWrote (k : Nat)
  /-- XFER.ERROR: the write failed; `k` is carried and ignored (R73, R79). -/
  | xferError (k : Nat)
  /-- UNPACK: its operand is `rbuf`, so it carries none (R95, R96; log 12). -/
  | unpack
  deriving DecidableEq, Repr

/-- The operand forms of a request (R68, R69). -/
inductive Operands where
  | none
  /-- `N` and a list of 16-bit words. -/
  | words (n : Nat) (ws : List Word)
  /-- `m` and a list of bytes. -/
  | bytes (m : Nat) (bs : List Byte)
  /-- A register address and an 8-bit value. -/
  | regVal (reg : Nat) (val : Byte)
  deriving DecidableEq, Repr, Inhabited

/-- A command-port request `(cmd : 4 bits, operands)` (R68). -/
structure CommandRecord where
  cmd      : BitVec 4
  operands : Operands
  deriving DecidableEq, Repr, Inhabited

/-- A transport write response `(kind : 1 bit, k)` (R73). -/
structure AnswerRecord where
  kind : BitVec 1
  k    : Nat
  deriving DecidableEq, Repr, Inhabited

/-- The free inputs a step samples (R34) and the draw of a RESET (R125). Any values at any step (log 4, 5). -/
structure Env where
  /-- `TransportOpen()`. -/
  transportOpen : Bool
  /-- `AllocOk()`. -/
  allocOk       : Bool
  /-- The draw j of R125: how many bytes of an abandoned write got out. -/
  abandoned     : Nat
  deriving DecidableEq, Repr, Inhabited

/-- One move of an external agent (R20, R118). -/
inductive Move where
  /-- The requester presents a request. -/
  | request (r : CommandRecord)
  /-- The request at this place among the waiting ones is taken up again (R10, R130). -/
  | retry (place : Nat)
  /-- The transport answers the pending write call (R79). -/
  | answer (r : AnswerRecord)
  deriving DecidableEq, Repr, Inhabited

/-- A move and the inputs its step samples (R34). -/
structure Input where
  move : Move
  env  : Env
  deriving DecidableEq, Repr, Inhabited

/-- The moves that follow the listed ones (R81, R118; log 3). -/
inductive Later where
  /-- These moves, over and over for ever; with none listed no agent moves any more. -/
  | cycle (moves : List Input)
  /-- For ever the moves of the free stream from its n-th on. -/
  | free (n : Nat)
  deriving DecidableEq, Repr

/-- The three formats of the opcode table: CMD, XFER and TRIPLE (R55). -/
inductive Record where
  | command (r : CommandRecord)
  | answer (r : AnswerRecord)
  | triple (b0 b1 b2 : Byte)
  deriving DecidableEq, Repr

/-- Why a record is no instruction: the two refusals of R70. -/
inductive DecodeError where
  /-- A cmd code 0x6 to 0xF. -/
  | reservedCommand
  /-- Operands of another form than the command's, or a list whose length is not its `N` or `m`. -/
  | malformedOperands
  deriving DecidableEq, Repr

/-- One decoded sample: the analog code and the logic byte of a triple (R64, R65). -/
structure Sample where
  analog : Code
  logic  : Byte
  deriving DecidableEq, Repr

end Sys2Proof
end

