-- ==== Sys2Proof/WellFormed.lean ====
section
/-! DEFINITION. Well-formed instructions and records (30_encoding.md R69): a request's list length is its N or m. Widths
are in the types. -/

namespace Sys2Proof

/-- R69: the list of a SEND has N words, the list of an ACCEPT has m bytes. -/
def Instr.wf : Instr → Bool
  | .reset | .discard | .stop | .encode _ _ | .xferWrote _ | .xferError _ | .unpack => true
  | .send n words => words.length == n
  | .accept m bytes => bytes.length == m

/-- The operand lists of a record agree with their counts (R69). -/
def Operands.wf : Operands → Bool
  | .none | .regVal _ _ => true
  | .words n ws => ws.length == n
  | .bytes m bs => bs.length == m

/-- A request of the command grammar: an assigned code, its operand form, and lists of the stated length (R68, R69). -/
def CommandRecord.wf (r : CommandRecord) : Bool :=
  r.operands.wf &&
    match r.operands with
    | .none => r.cmd == 0 || r.cmd == 3 || r.cmd == 4
    | .words _ _ => r.cmd == 1
    | .bytes _ _ => r.cmd == 2
    | .regVal _ _ => r.cmd == 5

/-- Answers and triples have no ill-formed value (R67, R73). -/
def Record.wf : Record → Bool
  | .command r => r.wf
  | .answer _ => true
  | .triple _ _ _ => true

end Sys2Proof
end

