-- ==== Sys2Proof/Decode.lean ====
section
/-! DEFINITION. Decoding of the block's records, total, refusing by name (30_encoding.md R68 to R73), of a triple's fields
(R63 to R65), and the encoder written from the same tables. -/

namespace Sys2Proof

/-- Read a request by its command code (R68), refusing what R70 refuses. -/
def decodeCommand (r : CommandRecord) : Except DecodeError Instr :=
  match r.cmd.toNat, r.operands with
  | 0x0, .none => .ok .reset
  | 0x1, .words n ws => if ws.length = n then .ok (.send n ws) else .error .malformedOperands
  | 0x2, .bytes m bs => if bs.length = m then .ok (.accept m bs) else .error .malformedOperands
  | 0x3, .none => .ok .discard
  | 0x4, .none => .ok .stop
  | 0x5, .regVal reg val => .ok (.encode reg val)
  | c, _ => if c ≤ 0x5 then .error .malformedOperands else .error .reservedCommand

/-- Read a transport answer by its kind bit (R73). -/
def decodeAnswer (r : AnswerRecord) : Instr :=
  if r.kind = 0 then .xferWrote r.k else .xferError r.k

/-- The 10-bit analog code of a triple: bits 5:0 from byte0, bits 9:6 from byte1 (R64). -/
def tripleAnalog (b0 b1 : Byte) : Code :=
  (b0 &&& 0x3F).setWidth 10 ||| ((b1 &&& 0x0F).setWidth 10 <<< 6)

/-- The logic byte of a triple: bits 1:0 from byte1, bits 7:2 from byte2 (R65). -/
def tripleLogic (b1 b2 : Byte) : Byte :=
  ((b1 &&& 0x30) >>> 4) ||| ((b2 &&& 0x3F) <<< 2)

/-- Both fields of a triple; bits 7:6 of each byte are ignored (R63, R67). -/
def decodeTriple (b0 b1 b2 : Byte) : Sample :=
  { analog := tripleAnalog b0 b1, logic := tripleLogic b1 b2 }

/-- The instruction a record stands for. A triple is UNPACK's data: every triple decodes (R67). -/
def decode : Record → Except DecodeError Instr
  | .command r => decodeCommand r
  | .answer r => .ok (decodeAnswer r)
  | .triple _ _ _ => .ok .unpack

/-- The operands of a request all of whose bits are zero, in the form its command code asks for (R68). -/
def zeroOperands (cmd : BitVec 4) : Operands :=
  match cmd.toNat with
  | 0x1 => .words 0 []
  | 0x2 => .bytes 0 []
  | 0x5 => .regVal 0 0
  | _ => .none

/-- The record whose bits are `w`, numbered as spec/opcode_table.json numbers them, every operand bit zero.
DESIGN CHOICE (log 2): the table's rows differ in width only in whole bytes, so a row of one byte is read at the command
port and a row of three bytes is a triple; a single bit is a transport answer. -/
def tableRecord (nbits w : Nat) : Option Record :=
  if nbits ≤ 1 then some (.answer { kind := BitVec.ofNat 1 w, k := 0 })
  else if nbits ≤ 8 then
    some (.command { cmd := BitVec.ofNat 4 w, operands := zeroOperands (BitVec.ofNat 4 w) })
  else if nbits ≤ 24 then
    some (.triple (BitVec.ofNat 8 w) (BitVec.ofNat 8 (w / 2 ^ 8)) (BitVec.ofNat 8 (w / 2 ^ 16)))
  else none

/-- The instruction of a word of the opcode table. -/
def decodeTableWord (nbits w : Nat) : Option Instr :=
  match tableRecord nbits w with
  | some r =>
    match decode r with
    | .ok i => some i
    | .error _ => none
  | none => none

/-- The bytes of a triple that carries the given fields, ignored bits zero (R63). -/
def encodeTriple (x : Sample) : Byte × Byte × Byte :=
  ( (x.analog &&& 0x3F).setWidth 8,
    ((x.analog >>> 6) &&& 0x0F).setWidth 8 ||| ((x.logic &&& 0x03) <<< 4),
    (x.logic >>> 2) &&& 0x3F )

/-- The record of an instruction (R68, R73). UNPACK has no code of its own (R95); the all-zero triple stands for it. -/
def encode : Instr → Record
  | .reset => .command { cmd := 0x0, operands := .none }
  | .send n words => .command { cmd := 0x1, operands := .words n words }
  | .accept m bytes => .command { cmd := 0x2, operands := .bytes m bytes }
  | .discard => .command { cmd := 0x3, operands := .none }
  | .stop => .command { cmd := 0x4, operands := .none }
  | .encode reg val => .command { cmd := 0x5, operands := .regVal reg val }
  | .xferWrote k => .answer { kind := 0, k := k }
  | .xferError k => .answer { kind := 1, k := k }
  | .unpack => .triple 0 0 0

end Sys2Proof
end

