-- ==== Sys2Proof/Config.lean ====
section
/-! DEFINITION. The implementation parameters (00_scope.md R6), the fixed constants (R7) and the free values. -/

namespace Sys2Proof

/-- One register of `REG_VALID` with its op-words: entry `v` of `words` is `OPWORD(reg, v)` (R6, R60). -/
structure LayoutRow where
  reg   : Nat
  words : List Word
  deriving DecidableEq, Repr, Inhabited

/-- The parameters of one block instance (R6), fixed for its life. DESIGN CHOICE (log 11): `OPWORD` on
`REG_VALID`, a finite set (R61), is held as a table, so that an instance is plain data. -/
structure Params where
  /-- `HDR`, the header bytes of every frame. -/
  hdr           : List Byte
  /-- `TRL`, the trailer bytes of every frame. -/
  trl           : List Byte
  /-- `MAX_WORDS`; `none` is unbounded. -/
  maxWords      : Option Nat
  /-- `READY_SENTINEL`, used by the environment only (R66). -/
  readySentinel : Byte
  /-- `OPWORD` and `REG_VALID`. -/
  layout        : List LayoutRow
  deriving DecidableEq, Repr, Inhabited

/-- The law of the op-word layout (40_framer.md R77) on the table: every valid register has one row of 256
words, and no word stands for two (register, value) pairs, so both sub-fields can be recovered. -/
def Params.lawful (p : Params) : Bool :=
  decide (p.layout.map (·.reg)).Nodup
    && p.layout.all (fun row => row.words.length == 256)
    && decide (p.layout.flatMap (·.words)).Nodup

/-- An instance whose layout breaks the law of R77 is none the spec describes; its table is dropped, which
makes `REG_VALID` empty and every op-word free (log 10). -/
def Params.checked (p : Params) : Params :=
  if p.lawful then p else { p with layout := [] }

namespace Config

/-- The parameters of this device. OPEN in the spec (92_eei_decisions.md D2 to D5, D9): no value. -/
opaque params : Params

/-- The op-word of a (register, value) pair outside the layout table: a word the law of R77 does not
constrain, the same each time for the same pair (R76; 93_implementation_defined.md I3). A free value. -/
opaque unlistedWord : Nat → Byte → Word

/-- The free stream: an endless schedule of moves with the inputs their steps sample. A free value: R80, R81 and R118
bound neither the answers nor the orders (log 3). -/
opaque freeInput : Nat → Input

/-- `BLOCK_BYTES` (R7). -/
abbrev blockBytes : Nat := 3072

/-- `SAMPLES` (R7). -/
abbrev samples : Nat := 1024

end Config

end Sys2Proof
end

