-- ==== Sys2Proof/Machine/State.lean ====
section
/-! DEFINITION. The machine's state (10_state.md R21 to R34), its state at device open (R37), and the reasons a step can
stop. State is plain data. -/

namespace Sys2Proof.Machine

/-- `fr_phase` (R23). -/
inductive Phase where
  | idle
  | sending
  deriving DecidableEq, Repr

/-- `fr_result` (R26). -/
inductive FrResult where
  | none
  | ok
  | transportError
  | allocationError
  deriving DecidableEq, Repr

/-- The outcomes of ACCEPT (R91), returned and kept in no register. -/
inductive AcceptOutcome where
  | appended
  | blockDone
  | closed
  | stopped
  deriving DecidableEq, Repr

/-- An event emitted to the sink (R31). -/
inductive SinkEvent where
  | onSamples (logic : List Byte) (analog : List Code)
  | onEndOfStream
  deriving DecidableEq, Repr

/-- What an operation returns to its caller (R75, R90, R96; log 9). -/
inductive Returned where
  /-- ENCODE's word (R76). -/
  | encoded (word : Word)
  /-- The return value of a completed SEND (R86). -/
  | sendDone (result : FrResult)
  /-- ACCEPT's outcome (R91). -/
  | accepted (outcome : AcceptOutcome)
  /-- UNPACK's arrays (R96). -/
  | unpacked (logic : List Byte) (analog : List Code)
  deriving DecidableEq, Repr

/-- A byte buffer: the listed (offset, byte) pairs, offsets strictly rising, no listed byte equal to what an
unlisted offset reads as (`Memory.wf`, Machine/Ops.lean). -/
abbrev Memory := List Host.Cell

/-- The whole state of the block, with the model's own fields last. -/
structure State where
  /-- The instance's parameters (R6); no step writes them (log 10). -/
  cfg      : Params
  /-- `fr_phase` (R23). -/
  frPhase  : Phase
  /-- `fbuf`, the frame buffer (R24). -/
  fbuf     : Memory
  /-- `L`, the length of the frame held (R24). -/
  len      : Nat
  /-- `w`, the transmit offset (R25). -/
  w        : Nat
  /-- `fr_result` (R26). -/
  frResult : FrResult
  /-- `wire`, the bytes the transport accepted (R27). -/
  wire     : List Byte
  /-- `rbuf`, the raw block buffer (R28). -/
  rbuf     : Memory
  /-- `F`, the fill count (R29). -/
  fill     : Nat
  /-- `stopped` (R30). -/
  stopped  : Bool
  /-- `sink`, the emitted events (R31). -/
  sink     : List SinkEvent
  /-- The fault mark (R33). -/
  fault    : Bool
  /-- The refusal mark (R33). -/
  refused  : Bool
  /-- MODEL: the external agents' moves to come, next first (log 3). -/
  inputs   : List Input
  /-- MODEL: the moves after those of `inputs` (log 3). -/
  later    : Later
  /-- MODEL: the requests waiting at the command port (R10, R130; log 6). -/
  held     : List Instr
  /-- MODEL: the inputs the current step samples (R34; log 4, 14). -/
  env      : Env
  /-- MODEL: what the last operation returned (log 9). -/
  returned : Option Returned
  deriving DecidableEq, Repr

/-- Why a run of an operation stops. -/
inductive Fault where
  /-- UNPACK on a block that is not full, the source's "precondition violation (block not full)" (R95). Raised by
  `execUnpack` alone; no step runs UNPACK on its own (R95), so no step raises it. Safe: the model stops, and no
  claim about a step rests on it. -/
  | blockNotFull
  deriving DecidableEq, Repr

/-- Why an instruction has no meaning. The refusals of R70 are not these: they set the mark `refused` of a next
state (log 8). -/
inductive Refusal where
  /-- An instruction of the table that is not modelled yet; raised by exec's refused arms, of which there are
  none. Safe. -/
  | notModelled (mnemonic : String)
  deriving DecidableEq, Repr

/-- What the step finds to do (log 3). -/
inductive Fetched where
  /-- Run an instruction in the given state. -/
  | run (i : Instr) (s : State)
  /-- No instruction runs; the given state is the next. -/
  | quiet (s : State)
  deriving DecidableEq, Repr

/-- The state at device open of an instance with parameters `p` (R37, R126). -/
def State.resetWith (p : Params) : State where
  cfg := p
  frPhase := .idle
  fbuf := []
  len := 0
  w := 0
  frResult := .none
  wire := []
  rbuf := []
  fill := 0
  stopped := false
  sink := []
  fault := false
  refused := false
  inputs := []
  later := .free 0
  held := []
  env := { transportOpen := false, allocOk := false, abandoned := 0 }
  returned := none

/-- The state at device open (R37, R126), of the device's own parameters (log 10). -/
def State.reset : State := State.resetWith Config.params.checked

end Sys2Proof.Machine
end

