-- ==== Sys2Proof/Machine/Operands.lean ====
section
/-! DEFINITION. Reading and writing the byte buffers, and the operand forms: big-endian words, frames, op-words, sample
slots. -/

namespace Sys2Proof.Machine

/-- What an unlisted offset of a buffer reads as. DESIGN CHOICE (log 13): the contents after reset are
unspecified and never observed (R127). -/
def Memory.unlisted : Byte := 0

/-- A listed cell in front of a buffer, left out when it says what an unlisted offset says. -/
def Memory.cell (a : Nat) (b : Byte) (rest : Memory) : Memory :=
  if b = Memory.unlisted then rest else (a, b) :: rest

/-- Read one byte of a buffer (R9 `rbuf[i]`). -/
def Memory.read : Memory → Nat → Byte
  | [], _ => Memory.unlisted
  | (a, b) :: rest, x => if a = x then b else Memory.read rest x

/-- Write one byte of a buffer (R9 `rbuf[i] <- v`), keeping the canonical form. -/
def Memory.write : Memory → Nat → Byte → Memory
  | [], x, v => Memory.cell x v []
  | (a, b) :: rest, x, v =>
    if x < a then Memory.cell x v ((a, b) :: rest)
    else if x = a then Memory.cell x v rest
    else (a, b) :: Memory.write rest x v

/-- The canonical form: offsets strictly rise and no listed byte reads as an unlisted one. -/
def Memory.wf : Memory → Bool
  | [] => true
  | (a, b) :: rest => b != Memory.unlisted && rest.all (fun c => decide (a < c.1)) && Memory.wf rest

/-- Every listed offset lies below `n`: the buffer's capacity is kept (R24, R28). -/
def Memory.within (m : Memory) (n : Nat) : Bool :=
  m.all (fun c => decide (c.1 < n))

/-- `buf[a..a+n)` (R9). -/
def Memory.readBytes (m : Memory) (a : Nat) : Nat → List Byte
  | 0 => []
  | n + 1 => m.read a :: Memory.readBytes m (a + 1) n

/-- `buf[a..a+len) <- bytes`, in offset order (R78, R91). -/
def Memory.writeBytes (m : Memory) (a : Nat) : List Byte → Memory
  | [] => m
  | b :: rest => Memory.writeBytes (m.write a b) (a + 1) rest

/-- `BE16(w)`: the most significant byte first (R58). -/
def be16 (x : Word) : List Byte :=
  [((x >>> 8) &&& 0xFF).setWidth 8, (x &&& 0xFF).setWidth 8]

/-- `frame(ws) = HDR ++ BE16(ws[0]) ++ ... ++ TRL`, nothing else (R57, R59). -/
def frame (p : Params) (words : List Word) : List Byte :=
  p.hdr ++ words.flatMap be16 ++ p.trl

/-- `L = HDR_LEN + 2*N + TRL_LEN` (R56). -/
def frameLength (p : Params) (n : Nat) : Nat :=
  p.hdr.length + 2 * n + p.trl.length

/-- `N <= MAX_WORDS` (R78, D9). -/
def fits (p : Params) (n : Nat) : Bool :=
  match p.maxWords with
  | none => true
  | some most => decide (n ≤ most)

/-- `reg` is in `REG_VALID` (R6; log 11). -/
def regValid (p : Params) (reg : Nat) : Bool :=
  p.layout.any (fun row => row.reg == reg)

/-- `OPWORD(reg, val)` (R60, R76): the table's word, and outside the table a free one (log 11). -/
def opword (p : Params) (reg : Nat) (val : Byte) : Word :=
  match p.layout.find? (fun row => row.reg == reg) with
  | some row => row.words.getD val.toNat (Config.unlistedWord reg val)
  | none => Config.unlistedWord reg val

/-- The trigger-status reply means "data ready" (R66). The environment asks this; no meaning does (log 20). -/
def statusReady (p : Params) (reply : Byte) : Bool :=
  reply == p.readySentinel

/-- Sample slot `i` of the raw block: bytes `3i`, `3i+1`, `3i+2` (R48, R62). -/
def slot (m : Memory) (i : Nat) : Sample :=
  decodeTriple (m.read (3 * i)) (m.read (3 * i + 1)) (m.read (3 * i + 2))

/-- The 1024 decoded slots of a raw block, in slot order (R96). -/
def slots (m : Memory) : List Sample :=
  (List.range Config.samples).map (slot m)

/-- UNPACK's logic array (R96, R97). -/
def unpackLogic (m : Memory) : List Byte :=
  (slots m).map (·.logic)

/-- UNPACK's analog array, raw codes, never scaled (R96, R97; C1). -/
def unpackAnalog (m : Memory) : List Code :=
  (slots m).map (·.analog)

end Sys2Proof.Machine
end

