-- ==== Sys2Proof/Machine/Ops.lean ====
section
/-! DEFINITION. The named operations over the buffers and the registers. Every meaning is built from these. -/

namespace Sys2Proof.Machine

/-- Append the first `k` offered bytes to the wire history (R27, R79). -/
def pushWire (k : Nat) (s : State) : State :=
  { s with wire := s.wire ++ s.fbuf.readBytes s.w k }

/-- A `Wrote(k)` within the offer: k more bytes on the wire, and the offset moves on (R79). -/
def advance (k : Nat) (s : State) : State :=
  let t := pushWire k s
  { t with w := t.w + k }

/-- The one way an operation of the block completes a SEND, with success or with an error (R82, R111, R112,
R119): `fr_phase <- IDLE`, `fr_result` takes the code, nothing else changes, and the code is the SEND's return
value (R86). -/
def completeSend (r : FrResult) (s : State) : State :=
  { s with frPhase := .idle, frResult := r, returned := some (.sendDone r) }

/-- Build the whole frame in `fbuf` before the first write call (R78, R84). -/
def loadFrame (n : Nat) (words : List Word) (s : State) : State :=
  { s with
    len := frameLength s.cfg n
    fbuf := s.fbuf.writeBytes 0 (frame s.cfg words)
    w := 0 }

/-- Make the first write call of a SEND (R78). -/
def startSending (s : State) : State :=
  { s with frPhase := .sending, returned := none }

/-- The step is taken and returns this value to the requester. -/
def returning (r : Returned) (s : State) : State :=
  { s with returned := some r }

/-- The step is taken and returns nothing. -/
def returningNothing (s : State) : State :=
  { s with returned := none }

/-- `hold`: no step; the request stays pending at the command port (R10, R130; log 6). -/
def hold (i : Instr) (s : State) : State :=
  { s with held := s.held ++ [i], returned := none }

/-- Refusal: no step, the mark is set for good, all other state unchanged (R70, R114; log 8). -/
def recordRefusal (s : State) : State :=
  { s with refused := true, returned := none }

/-- Fault: the state is kept, marked faulted (R79, R114; log 8). -/
def recordFault (s : State) : State :=
  { s with fault := true, returned := none }

/-- Append received bytes at offset `F` of the raw block (R91). -/
def appendRaw (bytes : List Byte) (s : State) : State :=
  { s with rbuf := s.rbuf.writeBytes s.fill bytes, fill := s.fill + bytes.length }

/-- How many bytes of a chunk of `m` an ACCEPT takes (R92, the overrun guard). -/
def taken (m : Nat) (s : State) : Nat :=
  min m (Config.blockBytes - s.fill)

/-- `Emit(event)`: append one event to the sink history (R9, R31). -/
def emit (e : SinkEvent) (s : State) : State :=
  { s with sink := s.sink ++ [e] }

/-- `F <- 0`: the raw block's contents are left and never read again (R98, R99). -/
def clearFill (s : State) : State :=
  { s with fill := 0 }

/-- Set the stop latch (R100). -/
def latchStop (s : State) : State :=
  { s with stopped := true }

/-- The bytes of the abandoned write call that RESET lets out: the draw, bounded by what was offered (R125; log 5). -/
def abandonWrite (s : State) : State :=
  pushWire (min s.env.abandoned (s.len - s.w)) s

/-- Every register at its reset value; buffer contents, histories and marks stay (R125). -/
def clearRegisters (s : State) : State :=
  { s with
    frPhase := .idle
    len := 0
    w := 0
    frResult := .none
    fill := 0
    stopped := false
    returned := none }

end Sys2Proof.Machine
end

