-- ==== Sys2Proof/Machine/Flags.lean ====
section
/-! DEFINITION. The status outputs and the numeric codes (10_state.md R26, R32; 41_unpacker.md R91). Reading one has no side
effect. -/

namespace Sys2Proof.Machine

/-- `busy = (fr_phase = SENDING)` (R32): a write call is pending exactly then (R79). -/
def State.busy (s : State) : Bool :=
  s.frPhase == .sending

/-- The bytes the pending write call offers, the whole remainder `fbuf[w..L)` (R45, R80); none while IDLE. -/
def State.offered (s : State) : Option (List Byte) :=
  if s.busy then some (s.fbuf.readBytes s.w (s.len - s.w)) else none

/-- The numbering of `fr_result` (R26). -/
def FrResult.code : FrResult → BitVec 2
  | .none => 0
  | .ok => 1
  | .transportError => 2
  | .allocationError => 3

/-- The numbering of ACCEPT's outcomes (R91). -/
def AcceptOutcome.code : AcceptOutcome → BitVec 2
  | .appended => 0
  | .blockDone => 1
  | .closed => 2
  | .stopped => 3

/-- The status outputs `(busy, F, stopped, fr_result)` (R32). -/
def State.status (s : State) : Bool × BitVec 12 × Bool × BitVec 2 :=
  (s.busy, BitVec.ofNat 12 s.fill, s.stopped, s.frResult.code)

/-- The requests that hold while a SEND is in flight (R130): ENCODE and RESET never hold. -/
def holds : Instr → Bool
  | .send _ _ | .accept _ _ | .discard | .stop => true
  | .reset | .encode _ _ | .xferWrote _ | .xferError _ | .unpack => false

end Sys2Proof.Machine
end

