-- ==== Sys2Proof/Machine/Framer.lean ====
section
/-! DEFINITION. The framer's operations: ENCODE, SEND, XFER (40_framer.md). -/

namespace Sys2Proof.Machine

/-- ENCODE(reg, val) (R76): steps in every state, returns the op-word, writes nothing. -/
def execEncode (reg : Nat) (val : Byte) (s : State) : Host.Outcome State Fault Refusal :=
  .next (returning (.encoded (opword s.cfg reg val)) s)

/-- The last part of a SEND that passed its checks (R78): the frame is built; an empty one is complete at once. -/
def buildAndStart (n : Nat) (words : List Word) (s : State) : State :=
  let t := loadFrame n words s
  if t.len = 0 then completeSend .ok t else startSending t

/-- The checks of a SEND in the order of R117, then its start. A malformed list is refused first (R70; log 16). -/
def sendNext (n : Nat) (words : List Word) (s : State) : State :=
  if words.length ≠ n then recordRefusal s
  else if s.busy then hold (.send n words) s
  else if !s.env.transportOpen then completeSend .transportError s
  else if !fits s.cfg n || !s.env.allocOk then completeSend .allocationError s
  else buildAndStart n words s

/-- SEND(N, words) (R78). -/
def execSend (n : Nat) (words : List Word) (s : State) : Host.Outcome State Fault Refusal :=
  .next (sendNext n words s)

/-- A `Wrote(k)` answer (R79): beyond the offer it is the fault TransportOverreport; with no write call pending
no XFER step exists and nothing happens (log 7). -/
def xferWroteNext (k : Nat) (s : State) : State :=
  if !s.busy then returningNothing s
  else if k > s.len - s.w then recordFault s
  else
    let t := advance k s
    if t.w = t.len then completeSend .ok t else returningNothing t

/-- XFER Wrote(k) (R79). -/
def execXferWrote (k : Nat) (s : State) : Host.Outcome State Fault Refusal :=
  .next (xferWroteNext k s)

/-- A `WriteError` answer (R79, R83): the SEND completes with TRANSPORT_ERROR; with no write call pending
nothing happens (log 7). -/
def xferErrorNext (s : State) : State :=
  if !s.busy then returningNothing s else completeSend .transportError s

/-- XFER WriteError (R79); its `k` is ignored (R73). -/
def execXferError (_k : Nat) (s : State) : Host.Outcome State Fault Refusal :=
  .next (xferErrorNext s)

end Sys2Proof.Machine
end

