-- ==== Sys2Proof/Machine/Reset.lean ====
section
/-! DEFINITION. RESET (70_reset_and_hazards.md R125). -/

namespace Sys2Proof.Machine

/-- RESET (R125): steps in every state. An in-flight SEND is abandoned, a drawn number of its offered bytes having
reached the wire, and no result is reported for it. -/
def execReset (s : State) : Host.Outcome State Fault Refusal :=
  .next (clearRegisters (if s.busy then abandonWrite s else s))

end Sys2Proof.Machine
end

