-- ==== Sys2Proof/Machine/Unpacker.lean ====
section
/-! DEFINITION. The unpacker's operations: ACCEPT, UNPACK, DISCARD, STOP (41_unpacker.md). -/

namespace Sys2Proof.Machine

/-- A full block is decoded, emitted, and the fill count returns to 0, all in one step (R91, R97, R98). -/
def finishBlock (s : State) : State :=
  returning (.accepted .blockDone)
    (clearFill (emit (.onSamples (unpackLogic s.rbuf) (unpackAnalog s.rbuf)) s))

/-- The checks of an ACCEPT in the order of R117, then the append. A malformed list is refused first (R70; log 16). -/
def acceptNext (m : Nat) (bytes : List Byte) (s : State) : State :=
  if bytes.length ≠ m then recordRefusal s
  else if s.busy then hold (.accept m bytes) s
  else if s.stopped then returning (.accepted .stopped) s
  else if m = 0 then returning (.accepted .closed) s
  else
    let t := appendRaw (bytes.take (taken m s)) s
    if t.fill = Config.blockBytes then finishBlock t else returning (.accepted .appended) t

/-- ACCEPT(m, bytes) (R91). -/
def execAccept (m : Nat) (bytes : List Byte) (s : State) : Host.Outcome State Fault Refusal :=
  .next (acceptNext m bytes s)

/-- UNPACK(rbuf) (R96): returns both arrays, writes nothing. Its operand is the full block; on one that is not
full it is the source's precondition violation, which no step meets (R95; log 12). -/
def execUnpack (s : State) : Host.Outcome State Fault Refusal :=
  if s.fill = Config.blockBytes then
    .next (returning (.unpacked (unpackLogic s.rbuf) (unpackAnalog s.rbuf)) s)
  else .fault .blockNotFull

/-- DISCARD's next state (R99). -/
def discardNext (s : State) : State :=
  if s.busy then hold .discard s else returningNothing (clearFill s)

/-- DISCARD (R99). -/
def execDiscard (s : State) : Host.Outcome State Fault Refusal :=
  .next (discardNext s)

/-- STOP's next state (R100): the first one ends the stream, a later one is a no-op (R101). -/
def stopNext (s : State) : State :=
  if s.busy then hold .stop s
  else if s.stopped then returningNothing s
  else returningNothing (emit .onEndOfStream (clearFill (latchStop s)))

/-- STOP (R100). -/
def execStop (s : State) : Host.Outcome State Fault Refusal :=
  .next (stopNext s)

end Sys2Proof.Machine
end

