-- ==== Sys2Proof/Machine/Dispatch.lean ====
section
/-! DEFINITION. One arm per instruction. -/

namespace Sys2Proof.Machine

def exec (i : Instr) (s : State) : Host.Outcome State Fault Refusal :=
  match i with
  | .reset => Sys2Proof.Machine.execReset s
  | .send n words => Sys2Proof.Machine.execSend n words s
  | .accept m bytes => Sys2Proof.Machine.execAccept m bytes s
  | .discard => Sys2Proof.Machine.execDiscard s
  | .stop => Sys2Proof.Machine.execStop s
  | .encode reg val => Sys2Proof.Machine.execEncode reg val s
  | .xferWrote k => Sys2Proof.Machine.execXferWrote k s
  | .xferError k => Sys2Proof.Machine.execXferError k s
  | .unpack => Sys2Proof.Machine.execUnpack s

end Sys2Proof.Machine
end

