-- ==== Sys2Proof/Machine/Fetch.lean ====
section
/-! DEFINITION. How the next move of an external agent becomes an instruction to run (00_scope.md R5; log 3), and how a word
of the opcode table is placed as the next move (log 15). -/

namespace Sys2Proof.Machine

/-- The next move is taken from the list and its inputs are sampled (R34). -/
def takeMove (x : Input) (rest : List Input) (s : State) : State :=
  { s with inputs := rest, env := x.env, returned := none }

/-- The request at a place leaves the waiting ones to be run (R130). -/
def takeHeld (place : Nat) (s : State) : State :=
  { s with held := s.held.eraseIdx place }

/-- What a move asks the block to do (R5). A request outside the grammar is refused (R70). -/
def fetchMove (m : Move) (s : State) : Fetched :=
  match m with
  | .request r =>
    match decodeCommand r with
    | .ok i => .run i s
    | .error _ => .quiet (recordRefusal s)
  | .retry place =>
    match s.held[place]? with
    | some i => .run i (takeHeld place s)
    | none => .quiet s
  | .answer r => .run (decodeAnswer r) s

/-- With no listed move left, the next ones are listed (log 3). -/
def refill (s : State) : State :=
  match s.inputs, s.later with
  | _ :: _, _ => s
  | [], .cycle moves => { s with inputs := moves }
  | [], .free n => { s with inputs := [Config.freeInput n], later := .free (n + 1) }

/-- The next thing to do: the first move, or nothing where no external agent moves any more. -/
def fetch (s : State) : Fetched :=
  match (refill s).inputs with
  | [] => .quiet s
  | x :: rest => fetchMove x.move (takeMove x rest (refill s))

/-- Inputs under which no check of a SEND fails: transport open, allocation granted, no abandoned byte. -/
def calmEnv : Env := { transportOpen := true, allocOk := true, abandoned := 0 }

/-- The ACCEPT request that hands over the three bytes of a triple. -/
def acceptTriple (b0 b1 b2 : Byte) : CommandRecord :=
  { cmd := 0x2, operands := .bytes 3 [b0, b1, b2] }

/-- The record as the very next move. UNPACK runs only inside the ACCEPT that fills the block (R95), so a triple is
placed as the last three bytes of a block that lacks just those. -/
def placeRecord (r : Record) (s : State) : State :=
  match r with
  | .command c => { s with inputs := { move := .request c, env := calmEnv } :: s.inputs }
  | .answer a => { s with inputs := { move := .answer a, env := calmEnv } :: s.inputs }
  | .triple b0 b1 b2 =>
    { s with
      frPhase := .idle
      stopped := false
      fill := Config.blockBytes - 3
      inputs := { move := .request (acceptTriple b0 b1 b2), env := calmEnv } :: s.inputs }

end Sys2Proof.Machine
end

