-- ==== Sys2Proof/Machine/Step.lean ====
section
/-! DEFINITION. One step of the block (00_scope.md R5): the next move of an external agent is taken and run. -/

namespace Sys2Proof.Machine

/-- One step: the fetched instruction runs, or the fetched state is the next (R5, R10). -/
def step (s : State) : Host.Outcome State Fault Refusal :=
  match fetch s with
  | .run i t => exec i t
  | .quiet t => .next t

/-- The state with the record of an opcode-table word placed as the next move (log 15). -/
def State.withFetchWord (s : State) (nbits w : Nat) : State :=
  match tableRecord nbits w with
  | some r => placeRecord r s
  | none => s

end Sys2Proof.Machine
end

