-- ==== Sys2Proof/Safety.lean ====
section
/-! DEFINITION. The terms claims are stated in: the invariant of every step, what two states share, and runs of several
operations. -/

namespace Sys2Proof.Machine

/-- Both arrays of an `on_samples` event have one element per sample slot (R31, R97). -/
def SinkEvent.wf : SinkEvent → Bool
  | .onSamples logic analog => logic.length == Config.samples && analog.length == Config.samples
  | .onEndOfStream => true

/-- The invariant every step keeps: R36, with the capacities of R24 and R28, the canonical form of the buffers, and
what may wait at the command port (R130). -/
structure State.Inv (s : State) : Prop where
  /-- `0 <= w <= L` (R25, R36). -/
  offset : s.w ≤ s.len
  /-- A pending write call offers at least one byte (R80). -/
  pending : s.frPhase = .sending → s.w < s.len
  /-- `fr_phase = IDLE` or `L >= HDR_LEN + TRL_LEN` (R36). -/
  frameLong : s.frPhase = .idle ∨ s.cfg.hdr.length + s.cfg.trl.length ≤ s.len
  /-- `0 <= F <= 3071` (R29, R36). -/
  fillBound : s.fill ≤ 3071
  /-- `stopped = 1` implies `F = 0` (R36). -/
  stoppedEmpty : s.stopped = true → s.fill = 0
  /-- While stopped, the last event is the end of stream (R54, R100). -/
  streamEnded : s.stopped = true → s.sink.getLast? = some .onEndOfStream
  /-- Every emitted block has 1024 samples (R31). -/
  events : ∀ e ∈ s.sink, e.wf = true
  /-- Only the requests of R130 wait, and they are of the command grammar. -/
  waiting : ∀ i ∈ s.held, holds i = true ∧ i.wf = true
  /-- `rbuf` is in canonical form, within its 3072 bytes (R28, R92). -/
  rawBuffer : s.rbuf.wf = true ∧ s.rbuf.within Config.blockBytes = true
  /-- `fbuf` is in canonical form. -/
  frameBuffer : s.fbuf.wf = true
  /-- `L` and `fbuf` keep the capacity of a bounded instance (R24). -/
  capacity : ∀ most, s.cfg.maxWords = some most →
    s.len ≤ frameLength s.cfg most ∧ s.fbuf.within (frameLength s.cfg most) = true
  /-- The op-word layout obeys its law (R77). -/
  layoutLaw : s.cfg.lawful = true

/-- No fault and no refusal is recorded: the premise of claims about the hardware (R33). -/
def State.unmarked (s : State) : Prop :=
  s.fault = false ∧ s.refused = false

/-- `t` has the framer registers, buffer and wire of `s` (R75). -/
def sameFramer (s t : State) : Prop :=
  t.frPhase = s.frPhase ∧ t.fbuf = s.fbuf ∧ t.len = s.len ∧ t.w = s.w ∧ t.frResult = s.frResult
    ∧ t.wire = s.wire

/-- `t` has the unpacker registers, buffer and sink of `s` (R90). -/
def sameUnpacker (s t : State) : Prop :=
  t.rbuf = s.rbuf ∧ t.fill = s.fill ∧ t.stopped = s.stopped ∧ t.sink = s.sink

/-- `t` has the marks of `s` (R33). -/
def sameMarks (s t : State) : Prop :=
  t.fault = s.fault ∧ t.refused = s.refused

/-- `t` has the parameters, the moves to come, the waiting requests and the sampled inputs of `s`. -/
def sameEnvironment (s t : State) : Prop :=
  t.cfg = s.cfg ∧ t.inputs = s.inputs ∧ t.later = s.later ∧ t.held = s.held ∧ t.env = s.env

/-- The two buffers agree wherever a rule may still read them before overwriting them (R127): the frame of a SEND
in flight and the bytes of the raw block collected so far. Everything else is equal. -/
def sameObservable (s t : State) : Prop :=
  ({ t with fbuf := s.fbuf, rbuf := s.rbuf } : State) = s
    ∧ (s.frPhase = .sending → ∀ a < s.len, t.fbuf.read a = s.fbuf.read a)
    ∧ (∀ a < s.fill, t.rbuf.read a = s.rbuf.read a)

/-- Run operations one after another, stopping at the first that stops. -/
def execAll : List Instr → State → Host.Outcome State Fault Refusal
  | [], s => .next s
  | i :: rest, s =>
    match exec i s with
    | .next t => execAll rest t
    | .fault r => .fault r
    | .refused r => .refused r

/-- `n` steps one after another. -/
def stepAll : Nat → State → Host.Outcome State Fault Refusal
  | 0, s => .next s
  | n + 1, s =>
    match step s with
    | .next t => stepAll n t
    | .fault r => .fault r
    | .refused r => .refused r

/-- The input is one of those still to come in `s`. -/
def State.toCome (s : State) (x : Input) : Prop :=
  x ∈ s.inputs ∨
    match s.later with
    | .cycle moves => x ∈ moves
    | .free n => ∃ m, n ≤ m ∧ x = Config.freeInput m

/-- A move that cannot end a SEND in flight: any request but RESET, a waiting request taken up again, or an answer
`Wrote(0)` (R81, R130). -/
def idleWhileSending : Move → Bool
  | .request r => decide (r.cmd ≠ 0x0)
  | .retry _ => true
  | .answer r => decide (r.kind = 0 ∧ r.k = 0)

/-- The answers `Wrote(k)` for a list of counts (R79). -/
def wroteAll (ks : List Nat) : List Instr :=
  ks.map .xferWrote

/-- The ACCEPT requests that hand over chunks in order (R91). -/
def acceptAll (chunks : List (List Byte)) : List Instr :=
  chunks.map (fun c => .accept c.length c)

end Sys2Proof.Machine
end

