-- ==== Sys2Proof/Certificates/Slice0/Obligations.lean ====
section
/-! DEFINITION. The statements for the provers. Each docstring names the rule of spec/ it formalises. A waiting request is a
request of `held` (log 6) and a returned value is in `returned` (log 9): these two fields are the model's picture of R10's
"The request waits" and of the rules' "return". -/

open Sys2Proof Sys2Proof.Machine

/-! ## Device open and RESET -/

/-- R37, R126: the state at device open, for every instance. The parameters and the buffers' contents are no part
of it. -/
def Obligations.DeviceOpenState : Prop :=
  State.reset = State.resetWith Config.params.checked ∧
  ∀ p : Params,
    (State.resetWith p).frPhase = .idle ∧ (State.resetWith p).len = 0 ∧ (State.resetWith p).w = 0 ∧
    (State.resetWith p).frResult = .none ∧ (State.resetWith p).fill = 0 ∧
    (State.resetWith p).stopped = false ∧ (State.resetWith p).wire = [] ∧ (State.resetWith p).sink = [] ∧
    (State.resetWith p).fault = false ∧ (State.resetWith p).refused = false

/-- R125: RESET steps in every state, sets every register, leaves buffers, sink and marks, and while SENDING
appends `fbuf[w..w+j)` to the wire for the drawn j; every j in 0..L-w is some draw's. -/
def Obligations.ResetClearsRegisters : Prop :=
  ∀ s : State,
    (∃ j : Nat, j ≤ s.len - s.w ∧
      exec .reset s = .next { s with
        frPhase := .idle, len := 0, w := 0, frResult := .none, fill := 0, stopped := false, returned := none,
        wire := if s.frPhase = .sending then s.wire ++ s.fbuf.readBytes s.w j else s.wire }) ∧
    (s.frPhase = .sending → ∀ j : Nat, j ≤ s.len - s.w →
      ∃ t, exec .reset { s with env := { s.env with abandoned := j } } = .next t ∧
        t.wire = s.wire ++ s.fbuf.readBytes s.w j)

/-! ## The op-word encoder -/

/-- R76: ENCODE steps in every state, for every register address, returns `OPWORD(reg, val)` and changes nothing. -/
def Obligations.EncodeReturnsOpword : Prop :=
  ∀ (reg : Nat) (val : Byte) (s : State),
    exec (.encode reg val) s = .next { s with returned := some (.encoded (opword s.cfg reg val)) }

/-- R77: for an instance with a lawful layout there are `REG_OF` and `VAL_OF` that recover both sub-fields of what
ENCODE returns, for every valid register and every value. -/
def Obligations.EncodedFieldsAreRecovered : Prop :=
  ∀ p : Params, p.lawful = true →
    ∃ (regOf : Word → Nat) (valOf : Word → Byte), ∀ (s : State) (reg : Nat) (val : Byte),
      s.cfg = p → regValid p reg = true →
      ∃ (t : State) (word : Word), exec (.encode reg val) s = .next t ∧ t.returned = some (.encoded word) ∧
        regOf word = reg ∧ valOf word = val

/-- R61: a lawful layout has at most 256 valid registers. -/
def Obligations.AtMost256ValidRegisters : Prop :=
  ∀ (p : Params) (regs : List Nat), p.lawful = true → regs.Nodup → (∀ r ∈ regs, regValid p r = true) →
    regs.length ≤ 256

/-! ## Frames -/

/-- R57, with the length of R56 and the bytes of R58: what stands at each offset of a frame. -/
def Obligations.FrameLayout : Prop :=
  ∀ (p : Params) (words : List Word),
    (frame p words).length = p.hdr.length + 2 * words.length + p.trl.length ∧
    (∀ i < p.hdr.length, (frame p words)[i]? = p.hdr[i]?) ∧
    (∀ (k : Nat) (x : Word), words[k]? = some x →
      (frame p words)[p.hdr.length + 2 * k]? = some (x.extractLsb' 8 8) ∧
      (frame p words)[p.hdr.length + 2 * k + 1]? = some (x.extractLsb' 0 8)) ∧
    (∀ j < p.trl.length, (frame p words)[p.hdr.length + 2 * words.length + j]? = p.trl[j]?)

/-! ## SEND -/

/-- R78: SEND holds while SENDING; else a closed transport is TRANSPORT_ERROR; else an oversized frame or a failed
draw is ALLOCATION_ERROR; else the frame is built at offset 0 and the first write call is made, an empty frame
being complete at once. Every other part of the state is as before. -/
def Obligations.SendChecksThenStarts : Prop :=
  ∀ (words : List Word) (s : State),
    (s.frPhase = .sending →
      exec (.send words.length words) s =
        .next { s with held := s.held ++ [.send words.length words], returned := none }) ∧
    (s.frPhase = .idle → s.env.transportOpen = false →
      exec (.send words.length words) s =
        .next { s with frResult := .transportError, returned := some (.sendDone .transportError) }) ∧
    (s.frPhase = .idle → s.env.transportOpen = true →
      ((∃ most, s.cfg.maxWords = some most ∧ most < words.length) ∨ s.env.allocOk = false) →
      exec (.send words.length words) s =
        .next { s with frResult := .allocationError, returned := some (.sendDone .allocationError) }) ∧
    (s.frPhase = .idle → s.env.transportOpen = true →
      (∀ most, s.cfg.maxWords = some most → words.length ≤ most) → s.env.allocOk = true →
      s.cfg.hdr.length + 2 * words.length + s.cfg.trl.length = 0 →
      exec (.send words.length words) s =
        .next { s with len := 0, w := 0, frResult := .ok, returned := some (.sendDone .ok) }) ∧
    (s.frPhase = .idle → s.env.transportOpen = true →
      (∀ most, s.cfg.maxWords = some most → words.length ≤ most) → s.env.allocOk = true →
      0 < s.cfg.hdr.length + 2 * words.length + s.cfg.trl.length →
      exec (.send words.length words) s =
        .next { s with
          len := s.cfg.hdr.length + 2 * words.length + s.cfg.trl.length
          fbuf := s.fbuf.writeBytes 0 (frame s.cfg words)
          w := 0
          frPhase := .sending
          returned := none })

/-- R78, R84, R45: what a started SEND leaves in `fbuf`: the frame at offsets 0..L-1, every other offset as before;
the write call offers the whole frame; nothing is on the wire yet. -/
def Obligations.SendStoresFrameOnly : Prop :=
  ∀ (words : List Word) (s t : State), s.fbuf.wf = true → s.frPhase = .idle →
    exec (.send words.length words) s = .next t → t.frPhase = .sending →
    t.fbuf.readBytes 0 t.len = frame s.cfg words ∧ t.offered = some (frame s.cfg words) ∧
    (∀ a, ¬ a < (frame s.cfg words).length → t.fbuf.read a = s.fbuf.read a) ∧
    t.wire = s.wire ∧ t.frResult = s.frResult ∧ sameUnpacker s t ∧ sameMarks s t ∧ sameEnvironment s t

/-! ## XFER -/

/-- R79, R80: the four cases of an answer to the pending write call. Without one no XFER step exists, for which the
model's choice is that nothing changes (log 7); that a run goes on with the fault mark set is log 8. -/
def Obligations.XferAnswers : Prop :=
  ∀ (k : Nat) (s : State),
    (s.frPhase = .sending →
      exec (.xferError k) s =
        .next { s with
          frPhase := .idle, frResult := .transportError, returned := some (.sendDone .transportError) }) ∧
    (s.frPhase = .sending → s.len - s.w < k →
      exec (.xferWrote k) s = .next { s with fault := true, returned := none }) ∧
    (s.frPhase = .sending → k ≤ s.len - s.w → s.w + k = s.len →
      exec (.xferWrote k) s =
        .next { s with
          wire := s.wire ++ s.fbuf.readBytes s.w k, w := s.w + k
          frPhase := .idle, frResult := .ok, returned := some (.sendDone .ok) }) ∧
    (s.frPhase = .sending → k ≤ s.len - s.w → s.w + k ≠ s.len →
      exec (.xferWrote k) s =
        .next { s with
          wire := s.wire ++ s.fbuf.readBytes s.w k, w := s.w + k, returned := none }) ∧
    (s.frPhase = .idle →
      exec (.xferError k) s = .next { s with returned := none } ∧
      exec (.xferWrote k) s = .next { s with returned := none })

/-- R45, R79, R80: a partial write takes the first k of the bytes offered, in order, and the next call offers the
whole remainder. -/
def Obligations.PartialWriteOffersRemainder : Prop :=
  ∀ (k : Nat) (s : State) (bytes : List Byte), s.offered = some bytes → k < bytes.length →
    ∃ t, exec (.xferWrote k) s = .next t ∧ t.wire = s.wire ++ bytes.take k ∧
      t.offered = some (bytes.drop k) ∧ t.frResult = s.frResult ∧
      (∀ a, t.fbuf.read a = s.fbuf.read a) ∧ sameUnpacker s t ∧ sameMarks s t ∧ sameEnvironment s t

/-- R81: any number of `Wrote(0)` answers changes nothing, and the SEND is still in flight. -/
def Obligations.ZeroWritesNeverComplete : Prop :=
  ∀ (n : Nat) (s : State), s.frPhase = .sending → s.w < s.len →
    ∃ t, execAll (wroteAll (List.replicate n 0)) s = .next t ∧ sameFramer s t ∧ sameUnpacker s t ∧
      sameMarks s t ∧ sameEnvironment s t

/-- R82 (V-SRC-2): a SEND whose partial writes sum to the frame's length puts exactly its frame on the wire and
reports OK, however the writes are split. -/
def Obligations.PartialWritesSendWholeFrame : Prop :=
  ∀ (words : List Word) (counts : List Nat) (s : State), s.fbuf.wf = true → s.frPhase = .idle →
    s.env.transportOpen = true → s.env.allocOk = true →
    (∀ most, s.cfg.maxWords = some most → words.length ≤ most) →
    counts.sum = frameLength s.cfg words.length → counts.dropLast.sum < frameLength s.cfg words.length →
    ∃ t, execAll (.send words.length words :: wroteAll counts) s = .next t ∧
      t.wire = s.wire ++ frame s.cfg words ∧ t.frPhase = .idle ∧ t.frResult = .ok ∧
      t.returned = some (.sendDone .ok) ∧ sameUnpacker s t ∧ sameMarks s t ∧ sameEnvironment s t

/-- R82, R83, R131 (V-SRC-2): a failed write after partial ones ends the SEND in TRANSPORT_ERROR without a retry, the
bytes already accepted stay on the wire, and a new SEND puts its whole frame right behind them. -/
def Obligations.ResendFollowsFailedPrefix : Prop :=
  ∀ (words again : List Word) (counts : List Nat) (k : Nat) (s : State), s.fbuf.wf = true →
    s.frPhase = .idle → s.env.transportOpen = true → s.env.allocOk = true →
    (∀ most, s.cfg.maxWords = some most → words.length ≤ most ∧ again.length ≤ most) →
    counts.sum < frameLength s.cfg words.length → 0 < frameLength s.cfg again.length →
    ∃ t u, execAll (.send words.length words :: wroteAll counts ++ [.xferError k]) s = .next t ∧
      t.frPhase = .idle ∧ t.frResult = .transportError ∧
      t.wire = s.wire ++ (frame s.cfg words).take counts.sum ∧
      execAll [.send again.length again, .xferWrote (frameLength s.cfg again.length)] t = .next u ∧
      u.frResult = .ok ∧ u.wire = t.wire ++ frame s.cfg again

/-- R136: answers that each take at least one byte end a SEND within as many answers as bytes remain, unless the
transport breaks its contract (R80). -/
def Obligations.NonzeroWritesEndSend : Prop :=
  ∀ (counts : List Nat) (s : State), s.frPhase = .sending → s.w < s.len → (∀ k ∈ counts, 0 < k) →
    s.len - s.w ≤ counts.length →
    ∃ n ≤ s.len - s.w, ∃ t, execAll (wroteAll (counts.take n)) s = .next t ∧
      ((t.frPhase = .idle ∧ t.frResult = .ok) ∨ t.fault = true)

/-- R86: `fr_result` changes only when a SEND completes, in SEND or XFER; ENCODE, ACCEPT, DISCARD and STOP keep it; RESET
makes it NONE; what a completed SEND returns is `fr_result`. -/
def Obligations.ResultChangesOnlyAtCompletion : Prop :=
  ∀ (i : Instr) (s t : State), exec i s = .next t →
    (i = .reset → t.frResult = .none) ∧
    (i ≠ .reset → t.frResult ≠ s.frResult →
      t.frPhase = .idle ∧ t.returned = some (.sendDone t.frResult) ∧
      ((∃ n words, i = .send n words) ∨ (∃ k, i = .xferWrote k) ∨ (∃ k, i = .xferError k))) ∧
    (∀ r, t.returned = some (.sendDone r) → t.frResult = r ∧ t.frPhase = .idle)

/-- R119: an error changes `fr_phase` and `fr_result` only; CLOSED and STOPPED change nothing. -/
def Obligations.ErrorsChangeOnlyTheResult : Prop :=
  ∀ (i : Instr) (s t : State), exec i s = .next t →
    (∀ r, r = .transportError ∨ r = .allocationError → t.returned = some (.sendDone r) →
      t = { s with frPhase := .idle, frResult := r, returned := some (.sendDone r) }) ∧
    (∀ o, o = .closed ∨ o = .stopped → t.returned = some (.accepted o) →
      t = { s with returned := some (.accepted o) })

/-! ## The hold -/

/-- R130: while SENDING exactly SEND, ACCEPT, DISCARD and STOP hold, changing nothing and waiting; while IDLE none of
them holds; ENCODE and RESET never do; and only an XFER or RESET ends SENDING. -/
def Obligations.RequestsHoldWhileSending : Prop :=
  (∀ (i : Instr) (s : State), holds i = true → i.wf = true → s.frPhase = .sending →
    exec i s = .next { s with held := s.held ++ [i], returned := none }) ∧
  (∀ (i : Instr) (s : State), holds i = true → s.frPhase = .idle →
    ∃ t, exec i s = .next t ∧ t.held = s.held) ∧
  (∀ (reg : Nat) (val : Byte) (s : State), ∃ t u, exec (.encode reg val) s = .next t ∧ t.held = s.held ∧
    exec .reset s = .next u ∧ u.held = s.held) ∧
  (∀ (i : Instr) (s t : State), exec i s = .next t → s.frPhase = .sending → t.frPhase = .idle →
    i = .reset ∨ (∃ k, i = .xferWrote k) ∨ (∃ k, i = .xferError k))

/-! ## ACCEPT and UNPACK -/

/-- R91, with R93 and R94: ACCEPT holds while SENDING; else STOPPED while stopped, for every m; else CLOSED for
m = 0; else the bytes are appended at offset F, and a chunk that fills the block is cut at its end, the block decoded
and emitted once, and F returns to 0. Every other part of the state is as before. The outcomes are numbered 0 to 3. -/
def Obligations.AcceptAppendsAndEmits : Prop :=
  ∀ (bytes : List Byte) (s : State),
    (s.frPhase = .sending →
      exec (.accept bytes.length bytes) s =
        .next { s with held := s.held ++ [.accept bytes.length bytes], returned := none }) ∧
    (s.frPhase = .idle → s.stopped = true →
      exec (.accept bytes.length bytes) s = .next { s with returned := some (.accepted .stopped) }) ∧
    (s.frPhase = .idle → s.stopped = false → bytes = [] →
      exec (.accept bytes.length bytes) s = .next { s with returned := some (.accepted .closed) }) ∧
    (s.frPhase = .idle → s.stopped = false → bytes ≠ [] → s.fill + bytes.length < 3072 →
      exec (.accept bytes.length bytes) s =
        .next { s with
          rbuf := s.rbuf.writeBytes s.fill bytes
          fill := s.fill + bytes.length
          returned := some (.accepted .appended) }) ∧
    (s.frPhase = .idle → s.stopped = false → s.fill ≤ 3071 → 3072 ≤ s.fill + bytes.length →
      exec (.accept bytes.length bytes) s =
        .next { s with
          rbuf := s.rbuf.writeBytes s.fill (bytes.take (3072 - s.fill))
          sink := s.sink ++ [.onSamples
            (unpackLogic (s.rbuf.writeBytes s.fill (bytes.take (3072 - s.fill))))
            (unpackAnalog (s.rbuf.writeBytes s.fill (bytes.take (3072 - s.fill))))]
          fill := 0
          returned := some (.accepted .blockDone) }) ∧
    [AcceptOutcome.appended, .blockDone, .closed, .stopped].map AcceptOutcome.code = [0, 1, 2, 3]

/-- R92: the overrun guard. An ACCEPT that steps stores its first `min(m, 3072 - F)` bytes at F and leaves every other
offset as before, so none at or beyond 3072 is written; the rest of the chunk has no effect at all. -/
def Obligations.AcceptStoresWithinBlock : Prop :=
  ∀ (bytes : List Byte) (s : State), s.rbuf.wf = true → s.frPhase = .idle → s.stopped = false → bytes ≠ [] →
    s.fill ≤ 3071 →
    ∃ t, exec (.accept bytes.length bytes) s = .next t ∧
      (∀ j < min bytes.length (3072 - s.fill), some (t.rbuf.read (s.fill + j)) = bytes[j]?) ∧
      (∀ a, ¬ (s.fill ≤ a ∧ a < s.fill + min bytes.length (3072 - s.fill)) →
        t.rbuf.read a = s.rbuf.read a) ∧
      exec (.accept (min bytes.length (3072 - s.fill)) (bytes.take (min bytes.length (3072 - s.fill)))) s =
        .next t ∧
      sameFramer s t ∧ sameMarks s t ∧ sameEnvironment s t ∧ t.stopped = s.stopped

/-- R63, with R64 and R65: the bit map of a triple; bits 7:6 of each byte are ignored. -/
def Obligations.TripleBitMap : Prop :=
  ∀ b0 b1 b2 : Byte,
    (∀ j < 6, (decodeTriple b0 b1 b2).analog.getLsbD j = b0.getLsbD j) ∧
    (∀ j < 4, (decodeTriple b0 b1 b2).analog.getLsbD (6 + j) = b1.getLsbD j) ∧
    (∀ j < 2, (decodeTriple b0 b1 b2).logic.getLsbD j = b1.getLsbD (4 + j)) ∧
    (∀ j < 6, (decodeTriple b0 b1 b2).logic.getLsbD (2 + j) = b2.getLsbD j) ∧
    decodeTriple b0 b1 b2 = decodeTriple (b0 &&& 0x3F) (b1 &&& 0x3F) (b2 &&& 0x3F)

/-- R96: UNPACK of a full block returns 1024 logic bytes and 1024 analog codes, element i from bytes 3i, 3i+1 and 3i+2
alone, and writes nothing. -/
def Obligations.UnpackDecodesEverySlot : Prop :=
  ∀ s : State, s.fill = 3072 →
    ∃ logic analog,
      exec .unpack s = .next { s with returned := some (.unpacked logic analog) } ∧
      logic.length = 1024 ∧ analog.length = 1024 ∧
      ∀ i < 1024,
        (∃ x, analog[i]? = some x ∧
          x.toNat = (s.rbuf.read (3 * i)).toNat % 64 + 64 * ((s.rbuf.read (3 * i + 1)).toNat % 16)) ∧
        (∃ y, logic[i]? = some y ∧
          y.toNat = (s.rbuf.read (3 * i + 1)).toNat / 16 % 4 + 4 * ((s.rbuf.read (3 * i + 2)).toNat % 64))

/-- R95: UNPACK runs inside the ACCEPT that fills the block: the event is what UNPACK returns on the filled block. -/
def Obligations.AcceptEmitsWhatUnpackReturns : Prop :=
  ∀ (bytes : List Byte) (s : State), s.frPhase = .idle → s.stopped = false → s.fill ≤ 3071 →
    3072 ≤ s.fill + bytes.length →
    ∃ t u logic analog,
      exec .unpack { s with
        rbuf := s.rbuf.writeBytes s.fill (bytes.take (3072 - s.fill)), fill := 3072 } = .next u ∧
      u.returned = some (.unpacked logic analog) ∧
      exec (.accept bytes.length bytes) s = .next t ∧
      t.sink = s.sink ++ [.onSamples logic analog] ∧ t.returned = some (.accepted .blockDone)

/-- R95, the model's choice (log 12): UNPACK on a block that is not full stops by name; no port carries it. -/
def Obligations.UnpackStopsOnPartialBlock : Prop :=
  (∀ s : State, s.fill ≠ 3072 → exec .unpack s = .fault .blockNotFull) ∧
  (∀ r : CommandRecord, decodeCommand r ≠ .ok .unpack) ∧ (∀ r : AnswerRecord, decodeAnswer r ≠ .unpack)

/-- R103: chunk independence. However 3072 bytes or more are split into nonempty ACCEPTs, the last filling the block,
exactly one event follows, the decode of the first 3072 bytes, and F is 0. -/
def Obligations.ChunkSplitDoesNotMatter : Prop :=
  ∀ (chunks : List (List Byte)) (s : State), s.rbuf.wf = true → s.frPhase = .idle → s.stopped = false →
    s.fill = 0 → (∀ c ∈ chunks, c ≠ []) → chunks.dropLast.flatten.length < 3072 →
    3072 ≤ chunks.flatten.length →
    ∃ t, execAll (acceptAll chunks) s = .next t ∧
      t.sink = s.sink ++ [.onSamples
        (unpackLogic (Memory.writeBytes [] 0 (chunks.flatten.take 3072)))
        (unpackAnalog (Memory.writeBytes [] 0 (chunks.flatten.take 3072)))] ∧
      t.fill = 0 ∧ t.returned = some (.accepted .blockDone) ∧ sameFramer s t ∧ sameMarks s t ∧
      sameEnvironment s t ∧ t.stopped = s.stopped

/-! ## DISCARD and STOP -/

/-- R99: DISCARD holds while SENDING, else sets F to 0 and nothing else. -/
def Obligations.DiscardClearsFillOnly : Prop :=
  ∀ s : State,
    (s.frPhase = .sending → exec .discard s = .next { s with held := s.held ++ [.discard], returned := none }) ∧
    (s.frPhase = .idle → exec .discard s = .next { s with fill := 0, returned := none })

/-- R100, R101: STOP holds while SENDING; the first one latches, drops the partial block and emits the end of stream; a
later one changes nothing. -/
def Obligations.StopEndsStreamOnce : Prop :=
  ∀ s : State,
    (s.frPhase = .sending → exec .stop s = .next { s with held := s.held ++ [.stop], returned := none }) ∧
    (s.frPhase = .idle → s.stopped = false →
      exec .stop s = .next { s with
        stopped := true, fill := 0, sink := s.sink ++ [.onEndOfStream], returned := none }) ∧
    (s.frPhase = .idle → s.stopped = true → exec .stop s = .next { s with returned := none })

/-- R54: over any operations without a RESET at most one end of stream is emitted, and once stopped nothing is. -/
def Obligations.OneEndOfStreamBetweenResets : Prop :=
  ∀ (ops : List Instr) (s t : State), Instr.reset ∉ ops → execAll ops s = .next t →
    t.sink.count .onEndOfStream ≤ s.sink.count .onEndOfStream + 1 ∧
    (s.stopped = true → t.sink = s.sink ∧ t.stopped = true)

/-! ## Frames of the two units -/

/-- R75, R90: the framer's operations write nothing of the unpacker and the unpacker's nothing of the framer nor the
fault mark, whatever form they take; neither writes the parameters, the moves to come or the sampled inputs. -/
def Obligations.UnitsDoNotWriteEachOther : Prop :=
  ∀ (s t : State),
    (∀ (n k reg : Nat) (words : List Word) (val : Byte),
      exec (.send n words) s = .next t ∨ exec (.encode reg val) s = .next t ∨
        exec (.xferWrote k) s = .next t ∨ exec (.xferError k) s = .next t →
      sameUnpacker s t ∧ t.cfg = s.cfg ∧ t.inputs = s.inputs ∧ t.later = s.later ∧ t.env = s.env) ∧
    (∀ (m : Nat) (bytes : List Byte),
      exec (.accept m bytes) s = .next t ∨ exec .discard s = .next t ∨ exec .stop s = .next t ∨
        exec .unpack s = .next t →
      sameFramer s t ∧ t.fault = s.fault ∧ t.cfg = s.cfg ∧ t.inputs = s.inputs ∧ t.later = s.later ∧ t.env = s.env)

/-- R87, R75: the framer reads nothing of the unpacker: with any other unpacker state the same SEND, ENCODE or XFER
does the same. -/
def Obligations.FramerIgnoresUnpacker : Prop :=
  ∀ (i : Instr) (s t : State) (rbuf : Memory) (fill : Nat) (stopped : Bool) (sink : List SinkEvent),
    ((∃ n words, i = .send n words) ∨ (∃ reg val, i = .encode reg val) ∨ (∃ k, i = .xferWrote k) ∨
      (∃ k, i = .xferError k)) →
    exec i s = .next t →
    exec i { s with rbuf := rbuf, fill := fill, stopped := stopped, sink := sink } =
      .next { t with rbuf := rbuf, fill := fill, stopped := stopped, sink := sink }

/-- R66: no operation reads `READY_SENTINEL`. -/
def Obligations.SentinelIsNeverRead : Prop :=
  ∀ (i : Instr) (s t : State) (b : Byte), exec i s = .next t →
    exec i { s with cfg := { s.cfg with readySentinel := b } } =
      .next { t with cfg := { t.cfg with readySentinel := b } }

/-! ## Records -/

/-- Decode and encode agree: an encoded well-formed instruction decodes to itself; a request of the grammar and every
answer is what its instruction encodes to; a triple carries all 10 and 8 bits of its fields. -/
def Obligations.DecodeEncodeAgree : Prop :=
  (∀ i : Instr, i.wf = true → decode (encode i) = .ok i) ∧
  (∀ r : CommandRecord, r.wf = true → ∃ i, decodeCommand r = .ok i ∧ i.wf = true ∧ encode i = .command r) ∧
  (∀ r : AnswerRecord, encode (decodeAnswer r) = .answer r) ∧
  (∀ x : Sample, decodeTriple (encodeTriple x).1 (encodeTriple x).2.1 (encodeTriple x).2.2 = x) ∧
  (∀ b0 b1 b2 : Byte, encodeTriple (decodeTriple b0 b1 b2) = (b0 &&& 0x3F, b1 &&& 0x3F, b2 &&& 0x3F))

/-- R68, R73: words written out from the encoding tables decode to their instructions. -/
def Obligations.TableWordsDecode : Prop :=
  decodeCommand { cmd := 0b0000#4, operands := .none } = .ok .reset ∧
  decodeCommand { cmd := 0b0001#4, operands := .words 2 [0x1234, 0x5678] } = .ok (.send 2 [0x1234, 0x5678]) ∧
  decodeCommand { cmd := 0b0010#4, operands := .bytes 1 [0xEE] } = .ok (.accept 1 [0xEE]) ∧
  decodeCommand { cmd := 0b0011#4, operands := .none } = .ok .discard ∧
  decodeCommand { cmd := 0b0100#4, operands := .none } = .ok .stop ∧
  decodeCommand { cmd := 0b0101#4, operands := .regVal 7 0x80 } = .ok (.encode 7 0x80) ∧
  decodeAnswer { kind := 0b0#1, k := 4 } = .xferWrote 4 ∧
  decodeAnswer { kind := 0b1#1, k := 0 } = .xferError 0 ∧
  decodeTriple 0b00101010 0b00010101 0b00101010 = { analog := 0b0101101010, logic := 0b10101001 }

/-- R70: a request outside the grammar is refused: the block takes no step, the mark is set, all else stays. A request
of the grammar is not refused, whatever its values (SEND with N > MAX_WORDS, ACCEPT with m = 0 and ENCODE with any
register among them). That the refused request is used up and the run goes on is the model's choice (log 8). -/
def Obligations.OnlyMalformedRequestsAreRefused : Prop :=
  ∀ (s : State) (r : CommandRecord) (e : Env) (rest : List Input),
    s.inputs = { move := .request r, env := e } :: rest →
    (r.wf = false →
      step s = .next { s with inputs := rest, env := e, returned := none, refused := true }) ∧
    (r.wf = true → ∃ t, step s = .next t ∧ t.refused = s.refused)

/-- R70, the model's choice for an instruction no decoder gives (log 16): a malformed list is refused by the meaning too. -/
def Obligations.MalformedListIsRefused : Prop :=
  ∀ (i : Instr) (s : State), i.wf = false → exec i s = .next { s with refused := true, returned := none }

/-! ## Steps -/

/-- R5: a step runs the decoded instruction of the next move in the state with that move taken and its inputs
sampled. A request taken up again leaves the waiting ones first. That the moves are a list and then a cycle or the free
stream, and that the block rests where no move is to come, is the model's choice (log 3). -/
def Obligations.StepRunsDecodedInstruction : Prop :=
  ∀ (s : State) (e : Env) (rest : List Input),
    (∀ (r : CommandRecord) (i : Instr), s.inputs = { move := .request r, env := e } :: rest →
      decodeCommand r = .ok i →
      step s = exec i { s with inputs := rest, env := e, returned := none }) ∧
    (∀ r : AnswerRecord, s.inputs = { move := .answer r, env := e } :: rest →
      step s = exec (decodeAnswer r) { s with inputs := rest, env := e, returned := none }) ∧
    (∀ (place : Nat) (i : Instr), s.inputs = { move := .retry place, env := e } :: rest →
      s.held[place]? = some i →
      step s = exec i { s with
        inputs := rest, env := e, returned := none, held := s.held.eraseIdx place }) ∧
    (∀ place : Nat, s.inputs = { move := .retry place, env := e } :: rest → s.held.length ≤ place →
      step s = .next { s with inputs := rest, env := e, returned := none }) ∧
    (∀ (x : Input) (moves : List Input), s.inputs = [] → s.later = .cycle (x :: moves) →
      step s = step { s with inputs := x :: moves }) ∧
    (∀ n : Nat, s.inputs = [] → s.later = .free n →
      step s = step { s with inputs := [Config.freeInput n], later := .free (n + 1) }) ∧
    (s.inputs = [] → s.later = .cycle [] → step s = .next s)

/-- The state at device open meets the invariant. -/
def Obligations.ResetStateMeetsInvariant : Prop :=
  State.reset.Inv ∧ ∀ p : Params, p.lawful = true → (State.resetWith p).Inv

/-- R36 and the capacities of R24 and R28, from every state that meets the invariant. -/
def Obligations.StepKeepsInvariant : Prop :=
  ∀ s t : State, s.Inv → step s = .next t → t.Inv

/-- No step ends in a stop of the model (R102). This is the model's choice where R10 lists outcomes apart: a fault or a
refusal is a mark in a next state (log 8), a hold a next state with one more waiting request (log 6), an answer nobody
waits for a move used up (log 7), and where no move is to come the state stays (log 3). -/
def Obligations.StepAlwaysAnswersNext : Prop :=
  ∀ s : State, s.Inv → ∃ t, step s = .next t

/-- R27, R31, R33: a step only appends to the histories, never clears a mark and never writes a parameter (R6). -/
def Obligations.HistoriesGrowAndMarksStay : Prop :=
  ∀ s t : State, step s = .next t →
    s.wire <+: t.wire ∧ s.sink <+: t.sink ∧ (s.fault = true → t.fault = true) ∧
    (s.refused = true → t.refused = true) ∧ t.cfg = s.cfg

/-- R127: no observation depends on buffer contents no rule has written: two states that differ only there take the same
steps and stay that way. -/
def Obligations.StaleBufferBytesAreUnobservable : Prop :=
  ∀ s t s' : State, sameObservable s t → s.rbuf.wf = true → t.rbuf.wf = true → s.fbuf.wf = true →
    t.fbuf.wf = true → step s = .next s' →
    ∃ t', step t = .next t' ∧ sameObservable s' t'

/-- R26, R91: the numeric codes of the status outputs. -/
def Obligations.StatusCodes : Prop :=
  FrResult.none.code = 0 ∧ FrResult.ok.code = 1 ∧ FrResult.transportError.code = 2 ∧
  FrResult.allocationError.code = 3 ∧ AcceptOutcome.appended.code = 0 ∧ AcceptOutcome.blockDone.code = 1 ∧
  AcceptOutcome.closed.code = 2 ∧ AcceptOutcome.stopped.code = 3

/-! ## Endless runs -/

/-- R81: the run in which the transport answers `Wrote(0)` for ever is a run of the model (as a cycle of moves, log 3):
after any number of steps, each of which answered the pending call, the SEND is still in flight and every register,
buffer and history is as before. -/
def Obligations.ZeroAnswersForever : Prop :=
  ∀ (s : State) (e : Env) (n : Nat), s.frPhase = .sending → s.w < s.len → s.inputs = [] →
    s.later = .cycle [{ move := .answer { kind := 0, k := 0 }, env := e }] →
    stepAll (n + 1) s = .next { s with env := e, returned := none }

/-- R81, R136, R130: while every answer to come is `Wrote(0)`, a SEND in flight never completes, whatever requests but
RESET come between and however long the run; they hold, so the unpacker too is as before. -/
def Obligations.SendNeverEndsOnZeroAnswers : Prop :=
  ∀ (s : State) (n : Nat), s.frPhase = .sending → s.w < s.len → (∀ i ∈ s.held, holds i = true) →
    (∀ x, s.toCome x → idleWhileSending x.move = true) →
    ∃ t, stepAll n s = .next t ∧ sameFramer s t ∧ sameUnpacker s t ∧ t.fault = s.fault ∧ t.cfg = s.cfg
end

