-- ==== Sys2Proof/Laws/Decode.lean ====
section
/-! SUPPORT. The inversion of the request decoder and what an encoded instruction looks like. -/

namespace Sys2Proof

theorem command_eq {r : CommandRecord} {c : Nat} {ops : Operands} (hc : r.cmd.toNat = c)
    (ho : r.operands = ops) : Record.command { cmd := BitVec.ofNat 4 c, operands := ops } = .command r := by
  obtain ⟨cmd, operands⟩ := r
  subst hc ho
  simp

/-- What a decoded request was: one of the six rows of R68, its list of the stated length. -/
theorem decodeCommand_ok {r : CommandRecord} {i : Instr} (h : decodeCommand r = .ok i) :
    i.wf = true ∧ i ≠ .unpack ∧ encode i = .command r := by
  unfold decodeCommand at h
  split at h
  case h_1 hc ho => cases h; exact ⟨rfl, by simp, command_eq hc ho⟩
  case h_2 n ws hc ho =>
    split at h
    · cases h
      exact ⟨by simp_all [Instr.wf], by simp, command_eq hc ho⟩
    · cases h
  case h_3 m bs hc ho =>
    split at h
    · cases h
      exact ⟨by simp_all [Instr.wf], by simp, command_eq hc ho⟩
    · cases h
  case h_4 hc ho => cases h; exact ⟨rfl, by simp, command_eq hc ho⟩
  case h_5 hc ho => cases h; exact ⟨rfl, by simp, command_eq hc ho⟩
  case h_6 reg val hc ho => cases h; exact ⟨rfl, by simp, command_eq hc ho⟩
  case h_7 => split at h <;> cases h

@[simp] theorem decodeAnswer_wf (r : AnswerRecord) : (decodeAnswer r).wf = true := by
  unfold decodeAnswer; split <;> rfl

theorem decodeAnswer_ne_unpack (r : AnswerRecord) : decodeAnswer r ≠ .unpack := by
  unfold decodeAnswer; split <;> simp

end Sys2Proof
end

