-- ==== Sys2Proof/Laws/Memory.lean ====
section
/-! SUPPORT. The laws of the byte buffers: a read after a write, the canonical form kept by every operation, the capacity
kept by writes below it. -/

namespace Sys2Proof.Machine

theorem Memory.read_nil (x : Nat) : Memory.read [] x = Memory.unlisted := rfl

/-- A smart cell reads as the cell it stands for, wherever it may be left out. -/
theorem Memory.read_cell (a x : Nat) (b : Byte) (rest : Memory)
    (h : a = x → Memory.read rest x = Memory.unlisted) :
    Memory.read (Memory.cell a b rest) x = if a = x then b else Memory.read rest x := by
  unfold Memory.cell
  split
  · rename_i hb
    split
    · rename_i hx; rw [h hx, hb]
    · rfl
  · rfl

/-- An offset below every listed one is unlisted. -/
theorem Memory.read_below (m : Memory) (x : Nat) (h : m.all (fun c => decide (x < c.1)) = true) :
    m.read x = Memory.unlisted := by
  induction m with
  | nil => rfl
  | cons c rest ih =>
    obtain ⟨a, b⟩ := c
    simp only [List.all_cons, Bool.and_eq_true, decide_eq_true_eq] at h
    simp only [Memory.read, if_neg (by omega : ¬a = x)]
    exact ih h.2

theorem Memory.wf_cons (a : Nat) (b : Byte) (rest : Memory) :
    Memory.wf ((a, b) :: rest) = true ↔
      b ≠ Memory.unlisted ∧ rest.all (fun c => decide (a < c.1)) = true ∧ Memory.wf rest = true := by
  simp [Memory.wf, and_assoc]

theorem Memory.all_lt_trans (m : Memory) {x a : Nat} (hxa : x < a)
    (h : m.all (fun c => decide (a < c.1)) = true) : m.all (fun c => decide (x < c.1)) = true := by
  simp only [List.all_eq_true, decide_eq_true_eq] at h ⊢
  intro c hc
  have := h c hc
  omega

/-- A read after a write: the written byte at its offset, the old one elsewhere (R9). -/
theorem Memory.read_write (m : Memory) (h : m.wf = true) (x : Nat) (v : Byte) (y : Nat) :
    (m.write x v).read y = if x = y then v else m.read y := by
  induction m with
  | nil => exact Memory.read_cell x y v [] (fun _ => rfl)
  | cons c rest ih =>
    obtain ⟨a, b⟩ := c
    obtain ⟨-, hlt, hrest⟩ := (Memory.wf_cons a b rest).1 h
    unfold Memory.write
    split
    · rename_i hxa
      refine Memory.read_cell x y v _ (fun hxy => ?_)
      subst hxy
      refine Memory.read_below _ _ ?_
      rw [List.all_cons, Memory.all_lt_trans rest hxa hlt]
      simpa using hxa
    · split
      · rename_i _ hxa
        subst hxa
        rw [Memory.read_cell x y v rest (fun hxy => hxy ▸ Memory.read_below rest x hlt)]
        split
        · rfl
        · rename_i hxy; simp [Memory.read, hxy]
      · rename_i hxa hne
        simp only [Memory.read, ih hrest]
        by_cases hay : a = y
        · subst hay; simp [hne]
        · simp [hay]

theorem Memory.all_cell (p : Host.Cell → Bool) (a : Nat) (b : Byte) (rest : Memory)
    (h : rest.all p = true) (hp : p (a, b) = true) : (Memory.cell a b rest).all p = true := by
  unfold Memory.cell
  split
  · exact h
  · simpa [hp] using h

/-- A property of all listed cells survives a write of a cell that has it. -/
theorem Memory.all_write (p : Host.Cell → Bool) (m : Memory) (x : Nat) (v : Byte)
    (h : m.all p = true) (hp : p (x, v) = true) : (m.write x v).all p = true := by
  induction m with
  | nil => exact Memory.all_cell p x v [] rfl hp
  | cons c rest ih =>
    obtain ⟨a, b⟩ := c
    have hc := h
    simp only [List.all_cons, Bool.and_eq_true] at hc
    unfold Memory.write
    split
    · exact Memory.all_cell p x v _ h hp
    · split
      · exact Memory.all_cell p x v _ hc.2 hp
      · simp only [List.all_cons, Bool.and_eq_true]
        exact ⟨hc.1, ih hc.2⟩

theorem Memory.wf_cell (a : Nat) (b : Byte) (rest : Memory)
    (hlt : rest.all (fun c => decide (a < c.1)) = true) (h : rest.wf = true) :
    (Memory.cell a b rest).wf = true := by
  unfold Memory.cell
  split
  · exact h
  · exact (Memory.wf_cons a b rest).2 ⟨‹_›, hlt, h⟩

/-- A write keeps the canonical form. -/
theorem Memory.wf_write (m : Memory) (h : m.wf = true) (x : Nat) (v : Byte) :
    (m.write x v).wf = true := by
  induction m with
  | nil => exact Memory.wf_cell x v [] rfl rfl
  | cons c rest ih =>
    obtain ⟨a, b⟩ := c
    obtain ⟨hb, hlt, hrest⟩ := (Memory.wf_cons a b rest).1 h
    unfold Memory.write
    split
    · rename_i hxa
      refine Memory.wf_cell x v _ ?_ h
      rw [List.all_cons, Memory.all_lt_trans rest hxa hlt]
      simpa using hxa
    · split
      · rename_i _ hxa
        subst hxa
        exact Memory.wf_cell x v rest hlt hrest
      · rename_i hxa hne
        refine (Memory.wf_cons a b _).2 ⟨hb, ?_, ih hrest⟩
        exact Memory.all_write _ rest x v hlt (by simp; omega)

/-- Equal reads are equal buffers: the canonical form is one per contents. -/
theorem Memory.ext_of_wf (m m' : Memory) (h : m.wf = true) (h' : m'.wf = true)
    (hr : ∀ x, m.read x = m'.read x) : m = m' := by
  induction m generalizing m' with
  | nil =>
    cases m' with
    | nil => rfl
    | cons c rest =>
      obtain ⟨a, b⟩ := c
      have := hr a
      simp only [Memory.read, if_true] at this
      exact absurd this.symm ((Memory.wf_cons a b rest).1 h').1
  | cons c rest ih =>
    obtain ⟨a, b⟩ := c
    obtain ⟨hb, hlt, hrest⟩ := (Memory.wf_cons a b rest).1 h
    cases m' with
    | nil =>
      have := hr a
      simp only [Memory.read, if_true] at this
      exact absurd this hb
    | cons c' rest' =>
      obtain ⟨a', b'⟩ := c'
      obtain ⟨hb', hlt', hrest'⟩ := (Memory.wf_cons a' b' rest').1 h'
      have hle : ∀ {p q : Nat} {d : Byte} {r : Memory}, p < q →
          r.all (fun c => decide (q < c.1)) = true → Memory.read ((q, d) :: r) p = Memory.unlisted := by
        intro p q d r hpq hr'
        refine Memory.read_below _ _ ?_
        rw [List.all_cons, Memory.all_lt_trans r hpq hr']
        simpa using hpq
      have haa : a = a' := by
        rcases Nat.lt_trichotomy a a' with hl | he | hl
        · have := hr a
          rw [hle hl hlt'] at this
          simp only [Memory.read, if_true] at this
          exact absurd this hb
        · exact he
        · have := hr a'
          rw [hle hl hlt] at this
          simp only [Memory.read, if_true] at this
          exact absurd this.symm hb'
      subst haa
      have hbb : b = b' := by simpa [Memory.read] using hr a
      subst hbb
      have : rest = rest' := ih rest' hrest hrest' (fun x => by
        by_cases hx : a = x
        · subst hx
          rw [Memory.read_below rest a hlt, Memory.read_below rest' a hlt']
        · simpa [Memory.read, hx] using hr x)
      rw [this]

/-! ## Runs of bytes -/

@[simp] theorem Memory.readBytes_length (m : Memory) (a n : Nat) : (m.readBytes a n).length = n := by
  induction n generalizing a with
  | zero => rfl
  | succ n ih => simp [Memory.readBytes, ih]

theorem Memory.readBytes_getElem? (m : Memory) (a n i : Nat) :
    (m.readBytes a n)[i]? = if i < n then some (m.read (a + i)) else none := by
  induction n generalizing a i with
  | zero => simp [Memory.readBytes]
  | succ n ih =>
    cases i with
    | zero => simp [Memory.readBytes]
    | succ i =>
      simp only [Memory.readBytes, List.getElem?_cons_succ, ih, Nat.succ_lt_succ_iff]
      rw [(by omega : a + 1 + i = a + (i + 1))]

theorem Memory.readBytes_append (m : Memory) (a n k : Nat) :
    m.readBytes a (n + k) = m.readBytes a n ++ m.readBytes (a + n) k := by
  induction n generalizing a with
  | zero => simp [Memory.readBytes]
  | succ n ih =>
    rw [(by omega : n + 1 + k = (n + k) + 1)]
    simp only [Memory.readBytes, ih, List.cons_append]
    rw [(by omega : a + 1 + n = a + (n + 1))]

/-- The first bytes of a run are a shorter run. -/
theorem Memory.readBytes_take (m : Memory) (a n k : Nat) (h : k ≤ n) :
    (m.readBytes a n).take k = m.readBytes a k := by
  obtain ⟨d, rfl⟩ := Nat.exists_eq_add_of_le h
  rw [Memory.readBytes_append, List.take_append_of_le_length (by simp), List.take_of_length_le (by simp)]

/-- The rest of a run is a run from further on. -/
theorem Memory.readBytes_drop (m : Memory) (a n k : Nat) (h : k ≤ n) :
    (m.readBytes a n).drop k = m.readBytes (a + k) (n - k) := by
  obtain ⟨d, rfl⟩ := Nat.exists_eq_add_of_le h
  rw [Memory.readBytes_append, List.drop_append_of_le_length (by simp)]
  simp

/-- Two buffers that agree on a range give the same bytes of it. -/
theorem Memory.readBytes_congr (m m' : Memory) (a n : Nat)
    (h : ∀ x, a ≤ x → x < a + n → m.read x = m'.read x) : m.readBytes a n = m'.readBytes a n := by
  induction n generalizing a with
  | zero => rfl
  | succ n ih =>
    simp only [Memory.readBytes]
    rw [h a (by omega) (by omega), ih (a + 1) (fun x h1 h2 => h x (by omega) (by omega))]

theorem Memory.wf_writeBytes (m : Memory) (h : m.wf = true) (a : Nat) (bs : List Byte) :
    (m.writeBytes a bs).wf = true := by
  induction bs generalizing m a with
  | nil => exact h
  | cons b bs ih => exact ih (m.write a b) (Memory.wf_write m h a b) (a + 1)

/-- Writing a run: the written bytes inside it, the old ones outside. -/
theorem Memory.read_writeBytes (m : Memory) (h : m.wf = true) (a : Nat) (bs : List Byte) (x : Nat) :
    (m.writeBytes a bs).read x =
      if a ≤ x ∧ x < a + bs.length then bs.getD (x - a) Memory.unlisted else m.read x := by
  induction bs generalizing m a with
  | nil => simp only [Memory.writeBytes, List.length_nil]; rw [if_neg (by omega)]
  | cons b bs ih =>
    rw [Memory.writeBytes, ih _ (Memory.wf_write m h a b), Memory.read_write m h, List.length_cons]
    by_cases hxa : a = x
    · subst hxa
      rw [if_neg (by omega), if_pos (by omega : a ≤ a ∧ a < a + (bs.length + 1))]
      simp
    · by_cases hin : a + 1 ≤ x ∧ x < a + 1 + bs.length
      · rw [if_pos hin, if_pos (by omega), (by omega : x - a = (x - (a + 1)) + 1)]
        rfl
      · rw [if_neg hin, if_neg hxa, if_neg (by omega)]

/-- What a run was written is what it reads. -/
theorem Memory.readBytes_writeBytes (m : Memory) (h : m.wf = true) (a : Nat) (bs : List Byte) :
    (m.writeBytes a bs).readBytes a bs.length = bs := by
  apply List.ext_getElem?
  intro i
  rw [Memory.readBytes_getElem?]
  split
  · rename_i hi
    rw [Memory.read_writeBytes m h, if_pos (by omega), Nat.add_sub_cancel_left,
      List.getD_eq_getElem?_getD, List.getElem?_eq_getElem hi]
    rfl
  · rw [List.getElem?_eq_none (by omega)]

theorem Memory.within_writeBytes (m : Memory) (n a : Nat) (bs : List Byte)
    (h : m.within n = true) (ha : a + bs.length ≤ n) : (m.writeBytes a bs).within n = true := by
  induction bs generalizing m a with
  | nil => exact h
  | cons b bs ih =>
    simp only [List.length_cons] at ha
    exact ih (m.write a b) (a + 1) (Memory.all_write _ m a b h (by simp; omega)) (by omega)

theorem Memory.writeBytes_append (m : Memory) (a : Nat) (bs cs : List Byte) :
    m.writeBytes a (bs ++ cs) = (m.writeBytes a bs).writeBytes (a + bs.length) cs := by
  induction bs generalizing m a with
  | nil => rfl
  | cons b bs ih =>
    simp only [List.cons_append, Memory.writeBytes, ih, List.length_cons]
    rw [(by omega : a + 1 + bs.length = a + (bs.length + 1))]

/-! ## Frames and sample slots -/

@[simp] theorem be16_length (x : Word) : (be16 x).length = 2 := rfl

/-- BE16 by its bit positions: bits 15:8, then bits 7:0 (R58). -/
theorem be16_eq (x : Word) : be16 x = [x.extractLsb' 8 8, x.extractLsb' 0 8] := by
  have mask : (255 : Nat) = 2 ^ 8 - 1 := rfl
  unfold be16
  congr 1
  · apply BitVec.eq_of_toNat_eq
    simp [BitVec.toNat_and, BitVec.toNat_ushiftRight]
    rw [mask, Nat.and_two_pow_sub_one_eq_mod]
    simp
  · congr 1
    apply BitVec.eq_of_toNat_eq
    simp [BitVec.toNat_and]
    rw [mask, Nat.and_two_pow_sub_one_eq_mod]
    simp

theorem flatMap_be16_length (ws : List Word) : (ws.flatMap be16).length = 2 * ws.length := by
  induction ws with
  | nil => rfl
  | cons x ws ih => simp only [List.flatMap_cons, List.length_append, ih, be16_length, List.length_cons]; omega

/-- The frame of N words is `HDR_LEN + 2*N + TRL_LEN` bytes (R56). -/
@[simp] theorem frame_length (p : Params) (ws : List Word) : (frame p ws).length = frameLength p ws.length := by
  simp only [frame, frameLength, List.length_append, flatMap_be16_length]

@[simp] theorem slots_length (m : Memory) : (slots m).length = 1024 := by
  simp [slots]

@[simp] theorem unpackLogic_length (m : Memory) : (unpackLogic m).length = 1024 := by
  simp [unpackLogic]

@[simp] theorem unpackAnalog_length (m : Memory) : (unpackAnalog m).length = 1024 := by
  simp [unpackAnalog]

/-- UNPACK depends on the 3072 bytes of the block only (R96). -/
theorem slots_congr (m m' : Memory) (h : ∀ a < 3072, m.read a = m'.read a) :
    slots m = slots m' := by
  refine List.map_congr_left (fun i hi => ?_)
  have hi' : i < 1024 := by simpa using hi
  simp only [slot]
  rw [h (3 * i) (show _ < 3072 by omega), h (3 * i + 1) (show _ < 3072 by omega),
    h (3 * i + 2) (show _ < 3072 by omega)]

end Sys2Proof.Machine
end

