-- ==== Sys2Proof/Laws/State.lean ====
section
/-! SUPPORT. One lemma per field per named operation on State, so that no proof unfolds a record update. -/

namespace Sys2Proof.Machine

variable (s : State)

@[simp] theorem pushWire_cfg (k : Nat) : (pushWire k s).cfg = s.cfg := rfl
@[simp] theorem pushWire_frPhase (k : Nat) : (pushWire k s).frPhase = s.frPhase := rfl
@[simp] theorem pushWire_fbuf (k : Nat) : (pushWire k s).fbuf = s.fbuf := rfl
@[simp] theorem pushWire_len (k : Nat) : (pushWire k s).len = s.len := rfl
@[simp] theorem pushWire_w (k : Nat) : (pushWire k s).w = s.w := rfl
@[simp] theorem pushWire_frResult (k : Nat) : (pushWire k s).frResult = s.frResult := rfl
@[simp] theorem pushWire_wire (k : Nat) : (pushWire k s).wire = s.wire ++ s.fbuf.readBytes s.w k := rfl
@[simp] theorem pushWire_rbuf (k : Nat) : (pushWire k s).rbuf = s.rbuf := rfl
@[simp] theorem pushWire_fill (k : Nat) : (pushWire k s).fill = s.fill := rfl
@[simp] theorem pushWire_stopped (k : Nat) : (pushWire k s).stopped = s.stopped := rfl
@[simp] theorem pushWire_sink (k : Nat) : (pushWire k s).sink = s.sink := rfl
@[simp] theorem pushWire_fault (k : Nat) : (pushWire k s).fault = s.fault := rfl
@[simp] theorem pushWire_refused (k : Nat) : (pushWire k s).refused = s.refused := rfl
@[simp] theorem pushWire_inputs (k : Nat) : (pushWire k s).inputs = s.inputs := rfl
@[simp] theorem pushWire_later (k : Nat) : (pushWire k s).later = s.later := rfl
@[simp] theorem pushWire_held (k : Nat) : (pushWire k s).held = s.held := rfl
@[simp] theorem pushWire_env (k : Nat) : (pushWire k s).env = s.env := rfl
@[simp] theorem pushWire_returned (k : Nat) : (pushWire k s).returned = s.returned := rfl

@[simp] theorem advance_cfg (k : Nat) : (advance k s).cfg = s.cfg := rfl
@[simp] theorem advance_frPhase (k : Nat) : (advance k s).frPhase = s.frPhase := rfl
@[simp] theorem advance_fbuf (k : Nat) : (advance k s).fbuf = s.fbuf := rfl
@[simp] theorem advance_len (k : Nat) : (advance k s).len = s.len := rfl
@[simp] theorem advance_w (k : Nat) : (advance k s).w = s.w + k := rfl
@[simp] theorem advance_frResult (k : Nat) : (advance k s).frResult = s.frResult := rfl
@[simp] theorem advance_wire (k : Nat) : (advance k s).wire = s.wire ++ s.fbuf.readBytes s.w k := rfl
@[simp] theorem advance_rbuf (k : Nat) : (advance k s).rbuf = s.rbuf := rfl
@[simp] theorem advance_fill (k : Nat) : (advance k s).fill = s.fill := rfl
@[simp] theorem advance_stopped (k : Nat) : (advance k s).stopped = s.stopped := rfl
@[simp] theorem advance_sink (k : Nat) : (advance k s).sink = s.sink := rfl
@[simp] theorem advance_fault (k : Nat) : (advance k s).fault = s.fault := rfl
@[simp] theorem advance_refused (k : Nat) : (advance k s).refused = s.refused := rfl
@[simp] theorem advance_inputs (k : Nat) : (advance k s).inputs = s.inputs := rfl
@[simp] theorem advance_later (k : Nat) : (advance k s).later = s.later := rfl
@[simp] theorem advance_held (k : Nat) : (advance k s).held = s.held := rfl
@[simp] theorem advance_env (k : Nat) : (advance k s).env = s.env := rfl
@[simp] theorem advance_returned (k : Nat) : (advance k s).returned = s.returned := rfl

@[simp] theorem completeSend_cfg (r : FrResult) : (completeSend r s).cfg = s.cfg := rfl
@[simp] theorem completeSend_frPhase (r : FrResult) : (completeSend r s).frPhase = .idle := rfl
@[simp] theorem completeSend_fbuf (r : FrResult) : (completeSend r s).fbuf = s.fbuf := rfl
@[simp] theorem completeSend_len (r : FrResult) : (completeSend r s).len = s.len := rfl
@[simp] theorem completeSend_w (r : FrResult) : (completeSend r s).w = s.w := rfl
@[simp] theorem completeSend_frResult (r : FrResult) : (completeSend r s).frResult = r := rfl
@[simp] theorem completeSend_wire (r : FrResult) : (completeSend r s).wire = s.wire := rfl
@[simp] theorem completeSend_rbuf (r : FrResult) : (completeSend r s).rbuf = s.rbuf := rfl
@[simp] theorem completeSend_fill (r : FrResult) : (completeSend r s).fill = s.fill := rfl
@[simp] theorem completeSend_stopped (r : FrResult) : (completeSend r s).stopped = s.stopped := rfl
@[simp] theorem completeSend_sink (r : FrResult) : (completeSend r s).sink = s.sink := rfl
@[simp] theorem completeSend_fault (r : FrResult) : (completeSend r s).fault = s.fault := rfl
@[simp] theorem completeSend_refused (r : FrResult) : (completeSend r s).refused = s.refused := rfl
@[simp] theorem completeSend_inputs (r : FrResult) : (completeSend r s).inputs = s.inputs := rfl
@[simp] theorem completeSend_later (r : FrResult) : (completeSend r s).later = s.later := rfl
@[simp] theorem completeSend_held (r : FrResult) : (completeSend r s).held = s.held := rfl
@[simp] theorem completeSend_env (r : FrResult) : (completeSend r s).env = s.env := rfl
@[simp] theorem completeSend_returned (r : FrResult) : (completeSend r s).returned = some (.sendDone r) := rfl

@[simp] theorem loadFrame_cfg (n : Nat) (ws : List Word) : (loadFrame n ws s).cfg = s.cfg := rfl
@[simp] theorem loadFrame_frPhase (n : Nat) (ws : List Word) : (loadFrame n ws s).frPhase = s.frPhase := rfl
@[simp] theorem loadFrame_fbuf (n : Nat) (ws : List Word) : (loadFrame n ws s).fbuf = s.fbuf.writeBytes 0 (frame s.cfg ws) := rfl
@[simp] theorem loadFrame_len (n : Nat) (ws : List Word) : (loadFrame n ws s).len = frameLength s.cfg n := rfl
@[simp] theorem loadFrame_w (n : Nat) (ws : List Word) : (loadFrame n ws s).w = 0 := rfl
@[simp] theorem loadFrame_frResult (n : Nat) (ws : List Word) : (loadFrame n ws s).frResult = s.frResult := rfl
@[simp] theorem loadFrame_wire (n : Nat) (ws : List Word) : (loadFrame n ws s).wire = s.wire := rfl
@[simp] theorem loadFrame_rbuf (n : Nat) (ws : List Word) : (loadFrame n ws s).rbuf = s.rbuf := rfl
@[simp] theorem loadFrame_fill (n : Nat) (ws : List Word) : (loadFrame n ws s).fill = s.fill := rfl
@[simp] theorem loadFrame_stopped (n : Nat) (ws : List Word) : (loadFrame n ws s).stopped = s.stopped := rfl
@[simp] theorem loadFrame_sink (n : Nat) (ws : List Word) : (loadFrame n ws s).sink = s.sink := rfl
@[simp] theorem loadFrame_fault (n : Nat) (ws : List Word) : (loadFrame n ws s).fault = s.fault := rfl
@[simp] theorem loadFrame_refused (n : Nat) (ws : List Word) : (loadFrame n ws s).refused = s.refused := rfl
@[simp] theorem loadFrame_inputs (n : Nat) (ws : List Word) : (loadFrame n ws s).inputs = s.inputs := rfl
@[simp] theorem loadFrame_later (n : Nat) (ws : List Word) : (loadFrame n ws s).later = s.later := rfl
@[simp] theorem loadFrame_held (n : Nat) (ws : List Word) : (loadFrame n ws s).held = s.held := rfl
@[simp] theorem loadFrame_env (n : Nat) (ws : List Word) : (loadFrame n ws s).env = s.env := rfl
@[simp] theorem loadFrame_returned (n : Nat) (ws : List Word) : (loadFrame n ws s).returned = s.returned := rfl

@[simp] theorem startSending_cfg : (startSending s).cfg = s.cfg := rfl
@[simp] theorem startSending_frPhase : (startSending s).frPhase = .sending := rfl
@[simp] theorem startSending_fbuf : (startSending s).fbuf = s.fbuf := rfl
@[simp] theorem startSending_len : (startSending s).len = s.len := rfl
@[simp] theorem startSending_w : (startSending s).w = s.w := rfl
@[simp] theorem startSending_frResult : (startSending s).frResult = s.frResult := rfl
@[simp] theorem startSending_wire : (startSending s).wire = s.wire := rfl
@[simp] theorem startSending_rbuf : (startSending s).rbuf = s.rbuf := rfl
@[simp] theorem startSending_fill : (startSending s).fill = s.fill := rfl
@[simp] theorem startSending_stopped : (startSending s).stopped = s.stopped := rfl
@[simp] theorem startSending_sink : (startSending s).sink = s.sink := rfl
@[simp] theorem startSending_fault : (startSending s).fault = s.fault := rfl
@[simp] theorem startSending_refused : (startSending s).refused = s.refused := rfl
@[simp] theorem startSending_inputs : (startSending s).inputs = s.inputs := rfl
@[simp] theorem startSending_later : (startSending s).later = s.later := rfl
@[simp] theorem startSending_held : (startSending s).held = s.held := rfl
@[simp] theorem startSending_env : (startSending s).env = s.env := rfl
@[simp] theorem startSending_returned : (startSending s).returned = none := rfl

@[simp] theorem returning_cfg (r : Returned) : (returning r s).cfg = s.cfg := rfl
@[simp] theorem returning_frPhase (r : Returned) : (returning r s).frPhase = s.frPhase := rfl
@[simp] theorem returning_fbuf (r : Returned) : (returning r s).fbuf = s.fbuf := rfl
@[simp] theorem returning_len (r : Returned) : (returning r s).len = s.len := rfl
@[simp] theorem returning_w (r : Returned) : (returning r s).w = s.w := rfl
@[simp] theorem returning_frResult (r : Returned) : (returning r s).frResult = s.frResult := rfl
@[simp] theorem returning_wire (r : Returned) : (returning r s).wire = s.wire := rfl
@[simp] theorem returning_rbuf (r : Returned) : (returning r s).rbuf = s.rbuf := rfl
@[simp] theorem returning_fill (r : Returned) : (returning r s).fill = s.fill := rfl
@[simp] theorem returning_stopped (r : Returned) : (returning r s).stopped = s.stopped := rfl
@[simp] theorem returning_sink (r : Returned) : (returning r s).sink = s.sink := rfl
@[simp] theorem returning_fault (r : Returned) : (returning r s).fault = s.fault := rfl
@[simp] theorem returning_refused (r : Returned) : (returning r s).refused = s.refused := rfl
@[simp] theorem returning_inputs (r : Returned) : (returning r s).inputs = s.inputs := rfl
@[simp] theorem returning_later (r : Returned) : (returning r s).later = s.later := rfl
@[simp] theorem returning_held (r : Returned) : (returning r s).held = s.held := rfl
@[simp] theorem returning_env (r : Returned) : (returning r s).env = s.env := rfl
@[simp] theorem returning_returned (r : Returned) : (returning r s).returned = some r := rfl

@[simp] theorem returningNothing_cfg : (returningNothing s).cfg = s.cfg := rfl
@[simp] theorem returningNothing_frPhase : (returningNothing s).frPhase = s.frPhase := rfl
@[simp] theorem returningNothing_fbuf : (returningNothing s).fbuf = s.fbuf := rfl
@[simp] theorem returningNothing_len : (returningNothing s).len = s.len := rfl
@[simp] theorem returningNothing_w : (returningNothing s).w = s.w := rfl
@[simp] theorem returningNothing_frResult : (returningNothing s).frResult = s.frResult := rfl
@[simp] theorem returningNothing_wire : (returningNothing s).wire = s.wire := rfl
@[simp] theorem returningNothing_rbuf : (returningNothing s).rbuf = s.rbuf := rfl
@[simp] theorem returningNothing_fill : (returningNothing s).fill = s.fill := rfl
@[simp] theorem returningNothing_stopped : (returningNothing s).stopped = s.stopped := rfl
@[simp] theorem returningNothing_sink : (returningNothing s).sink = s.sink := rfl
@[simp] theorem returningNothing_fault : (returningNothing s).fault = s.fault := rfl
@[simp] theorem returningNothing_refused : (returningNothing s).refused = s.refused := rfl
@[simp] theorem returningNothing_inputs : (returningNothing s).inputs = s.inputs := rfl
@[simp] theorem returningNothing_later : (returningNothing s).later = s.later := rfl
@[simp] theorem returningNothing_held : (returningNothing s).held = s.held := rfl
@[simp] theorem returningNothing_env : (returningNothing s).env = s.env := rfl
@[simp] theorem returningNothing_returned : (returningNothing s).returned = none := rfl

@[simp] theorem hold_cfg (i : Instr) : (hold i s).cfg = s.cfg := rfl
@[simp] theorem hold_frPhase (i : Instr) : (hold i s).frPhase = s.frPhase := rfl
@[simp] theorem hold_fbuf (i : Instr) : (hold i s).fbuf = s.fbuf := rfl
@[simp] theorem hold_len (i : Instr) : (hold i s).len = s.len := rfl
@[simp] theorem hold_w (i : Instr) : (hold i s).w = s.w := rfl
@[simp] theorem hold_frResult (i : Instr) : (hold i s).frResult = s.frResult := rfl
@[simp] theorem hold_wire (i : Instr) : (hold i s).wire = s.wire := rfl
@[simp] theorem hold_rbuf (i : Instr) : (hold i s).rbuf = s.rbuf := rfl
@[simp] theorem hold_fill (i : Instr) : (hold i s).fill = s.fill := rfl
@[simp] theorem hold_stopped (i : Instr) : (hold i s).stopped = s.stopped := rfl
@[simp] theorem hold_sink (i : Instr) : (hold i s).sink = s.sink := rfl
@[simp] theorem hold_fault (i : Instr) : (hold i s).fault = s.fault := rfl
@[simp] theorem hold_refused (i : Instr) : (hold i s).refused = s.refused := rfl
@[simp] theorem hold_inputs (i : Instr) : (hold i s).inputs = s.inputs := rfl
@[simp] theorem hold_later (i : Instr) : (hold i s).later = s.later := rfl
@[simp] theorem hold_held (i : Instr) : (hold i s).held = s.held ++ [i] := rfl
@[simp] theorem hold_env (i : Instr) : (hold i s).env = s.env := rfl
@[simp] theorem hold_returned (i : Instr) : (hold i s).returned = none := rfl

@[simp] theorem recordRefusal_cfg : (recordRefusal s).cfg = s.cfg := rfl
@[simp] theorem recordRefusal_frPhase : (recordRefusal s).frPhase = s.frPhase := rfl
@[simp] theorem recordRefusal_fbuf : (recordRefusal s).fbuf = s.fbuf := rfl
@[simp] theorem recordRefusal_len : (recordRefusal s).len = s.len := rfl
@[simp] theorem recordRefusal_w : (recordRefusal s).w = s.w := rfl
@[simp] theorem recordRefusal_frResult : (recordRefusal s).frResult = s.frResult := rfl
@[simp] theorem recordRefusal_wire : (recordRefusal s).wire = s.wire := rfl
@[simp] theorem recordRefusal_rbuf : (recordRefusal s).rbuf = s.rbuf := rfl
@[simp] theorem recordRefusal_fill : (recordRefusal s).fill = s.fill := rfl
@[simp] theorem recordRefusal_stopped : (recordRefusal s).stopped = s.stopped := rfl
@[simp] theorem recordRefusal_sink : (recordRefusal s).sink = s.sink := rfl
@[simp] theorem recordRefusal_fault : (recordRefusal s).fault = s.fault := rfl
@[simp] theorem recordRefusal_refused : (recordRefusal s).refused = true := rfl
@[simp] theorem recordRefusal_inputs : (recordRefusal s).inputs = s.inputs := rfl
@[simp] theorem recordRefusal_later : (recordRefusal s).later = s.later := rfl
@[simp] theorem recordRefusal_held : (recordRefusal s).held = s.held := rfl
@[simp] theorem recordRefusal_env : (recordRefusal s).env = s.env := rfl
@[simp] theorem recordRefusal_returned : (recordRefusal s).returned = none := rfl

@[simp] theorem recordFault_cfg : (recordFault s).cfg = s.cfg := rfl
@[simp] theorem recordFault_frPhase : (recordFault s).frPhase = s.frPhase := rfl
@[simp] theorem recordFault_fbuf : (recordFault s).fbuf = s.fbuf := rfl
@[simp] theorem recordFault_len : (recordFault s).len = s.len := rfl
@[simp] theorem recordFault_w : (recordFault s).w = s.w := rfl
@[simp] theorem recordFault_frResult : (recordFault s).frResult = s.frResult := rfl
@[simp] theorem recordFault_wire : (recordFault s).wire = s.wire := rfl
@[simp] theorem recordFault_rbuf : (recordFault s).rbuf = s.rbuf := rfl
@[simp] theorem recordFault_fill : (recordFault s).fill = s.fill := rfl
@[simp] theorem recordFault_stopped : (recordFault s).stopped = s.stopped := rfl
@[simp] theorem recordFault_sink : (recordFault s).sink = s.sink := rfl
@[simp] theorem recordFault_fault : (recordFault s).fault = true := rfl
@[simp] theorem recordFault_refused : (recordFault s).refused = s.refused := rfl
@[simp] theorem recordFault_inputs : (recordFault s).inputs = s.inputs := rfl
@[simp] theorem recordFault_later : (recordFault s).later = s.later := rfl
@[simp] theorem recordFault_held : (recordFault s).held = s.held := rfl
@[simp] theorem recordFault_env : (recordFault s).env = s.env := rfl
@[simp] theorem recordFault_returned : (recordFault s).returned = none := rfl

@[simp] theorem appendRaw_cfg (bs : List Byte) : (appendRaw bs s).cfg = s.cfg := rfl
@[simp] theorem appendRaw_frPhase (bs : List Byte) : (appendRaw bs s).frPhase = s.frPhase := rfl
@[simp] theorem appendRaw_fbuf (bs : List Byte) : (appendRaw bs s).fbuf = s.fbuf := rfl
@[simp] theorem appendRaw_len (bs : List Byte) : (appendRaw bs s).len = s.len := rfl
@[simp] theorem appendRaw_w (bs : List Byte) : (appendRaw bs s).w = s.w := rfl
@[simp] theorem appendRaw_frResult (bs : List Byte) : (appendRaw bs s).frResult = s.frResult := rfl
@[simp] theorem appendRaw_wire (bs : List Byte) : (appendRaw bs s).wire = s.wire := rfl
@[simp] theorem appendRaw_rbuf (bs : List Byte) : (appendRaw bs s).rbuf = s.rbuf.writeBytes s.fill bs := rfl
@[simp] theorem appendRaw_fill (bs : List Byte) : (appendRaw bs s).fill = s.fill + bs.length := rfl
@[simp] theorem appendRaw_stopped (bs : List Byte) : (appendRaw bs s).stopped = s.stopped := rfl
@[simp] theorem appendRaw_sink (bs : List Byte) : (appendRaw bs s).sink = s.sink := rfl
@[simp] theorem appendRaw_fault (bs : List Byte) : (appendRaw bs s).fault = s.fault := rfl
@[simp] theorem appendRaw_refused (bs : List Byte) : (appendRaw bs s).refused = s.refused := rfl
@[simp] theorem appendRaw_inputs (bs : List Byte) : (appendRaw bs s).inputs = s.inputs := rfl
@[simp] theorem appendRaw_later (bs : List Byte) : (appendRaw bs s).later = s.later := rfl
@[simp] theorem appendRaw_held (bs : List Byte) : (appendRaw bs s).held = s.held := rfl
@[simp] theorem appendRaw_env (bs : List Byte) : (appendRaw bs s).env = s.env := rfl
@[simp] theorem appendRaw_returned (bs : List Byte) : (appendRaw bs s).returned = s.returned := rfl

@[simp] theorem emit_cfg (e : SinkEvent) : (emit e s).cfg = s.cfg := rfl
@[simp] theorem emit_frPhase (e : SinkEvent) : (emit e s).frPhase = s.frPhase := rfl
@[simp] theorem emit_fbuf (e : SinkEvent) : (emit e s).fbuf = s.fbuf := rfl
@[simp] theorem emit_len (e : SinkEvent) : (emit e s).len = s.len := rfl
@[simp] theorem emit_w (e : SinkEvent) : (emit e s).w = s.w := rfl
@[simp] theorem emit_frResult (e : SinkEvent) : (emit e s).frResult = s.frResult := rfl
@[simp] theorem emit_wire (e : SinkEvent) : (emit e s).wire = s.wire := rfl
@[simp] theorem emit_rbuf (e : SinkEvent) : (emit e s).rbuf = s.rbuf := rfl
@[simp] theorem emit_fill (e : SinkEvent) : (emit e s).fill = s.fill := rfl
@[simp] theorem emit_stopped (e : SinkEvent) : (emit e s).stopped = s.stopped := rfl
@[simp] theorem emit_sink (e : SinkEvent) : (emit e s).sink = s.sink ++ [e] := rfl
@[simp] theorem emit_fault (e : SinkEvent) : (emit e s).fault = s.fault := rfl
@[simp] theorem emit_refused (e : SinkEvent) : (emit e s).refused = s.refused := rfl
@[simp] theorem emit_inputs (e : SinkEvent) : (emit e s).inputs = s.inputs := rfl
@[simp] theorem emit_later (e : SinkEvent) : (emit e s).later = s.later := rfl
@[simp] theorem emit_held (e : SinkEvent) : (emit e s).held = s.held := rfl
@[simp] theorem emit_env (e : SinkEvent) : (emit e s).env = s.env := rfl
@[simp] theorem emit_returned (e : SinkEvent) : (emit e s).returned = s.returned := rfl

@[simp] theorem clearFill_cfg : (clearFill s).cfg = s.cfg := rfl
@[simp] theorem clearFill_frPhase : (clearFill s).frPhase = s.frPhase := rfl
@[simp] theorem clearFill_fbuf : (clearFill s).fbuf = s.fbuf := rfl
@[simp] theorem clearFill_len : (clearFill s).len = s.len := rfl
@[simp] theorem clearFill_w : (clearFill s).w = s.w := rfl
@[simp] theorem clearFill_frResult : (clearFill s).frResult = s.frResult := rfl
@[simp] theorem clearFill_wire : (clearFill s).wire = s.wire := rfl
@[simp] theorem clearFill_rbuf : (clearFill s).rbuf = s.rbuf := rfl
@[simp] theorem clearFill_fill : (clearFill s).fill = 0 := rfl
@[simp] theorem clearFill_stopped : (clearFill s).stopped = s.stopped := rfl
@[simp] theorem clearFill_sink : (clearFill s).sink = s.sink := rfl
@[simp] theorem clearFill_fault : (clearFill s).fault = s.fault := rfl
@[simp] theorem clearFill_refused : (clearFill s).refused = s.refused := rfl
@[simp] theorem clearFill_inputs : (clearFill s).inputs = s.inputs := rfl
@[simp] theorem clearFill_later : (clearFill s).later = s.later := rfl
@[simp] theorem clearFill_held : (clearFill s).held = s.held := rfl
@[simp] theorem clearFill_env : (clearFill s).env = s.env := rfl
@[simp] theorem clearFill_returned : (clearFill s).returned = s.returned := rfl

@[simp] theorem latchStop_cfg : (latchStop s).cfg = s.cfg := rfl
@[simp] theorem latchStop_frPhase : (latchStop s).frPhase = s.frPhase := rfl
@[simp] theorem latchStop_fbuf : (latchStop s).fbuf = s.fbuf := rfl
@[simp] theorem latchStop_len : (latchStop s).len = s.len := rfl
@[simp] theorem latchStop_w : (latchStop s).w = s.w := rfl
@[simp] theorem latchStop_frResult : (latchStop s).frResult = s.frResult := rfl
@[simp] theorem latchStop_wire : (latchStop s).wire = s.wire := rfl
@[simp] theorem latchStop_rbuf : (latchStop s).rbuf = s.rbuf := rfl
@[simp] theorem latchStop_fill : (latchStop s).fill = s.fill := rfl
@[simp] theorem latchStop_stopped : (latchStop s).stopped = true := rfl
@[simp] theorem latchStop_sink : (latchStop s).sink = s.sink := rfl
@[simp] theorem latchStop_fault : (latchStop s).fault = s.fault := rfl
@[simp] theorem latchStop_refused : (latchStop s).refused = s.refused := rfl
@[simp] theorem latchStop_inputs : (latchStop s).inputs = s.inputs := rfl
@[simp] theorem latchStop_later : (latchStop s).later = s.later := rfl
@[simp] theorem latchStop_held : (latchStop s).held = s.held := rfl
@[simp] theorem latchStop_env : (latchStop s).env = s.env := rfl
@[simp] theorem latchStop_returned : (latchStop s).returned = s.returned := rfl

@[simp] theorem abandonWrite_cfg : (abandonWrite s).cfg = s.cfg := rfl
@[simp] theorem abandonWrite_frPhase : (abandonWrite s).frPhase = s.frPhase := rfl
@[simp] theorem abandonWrite_fbuf : (abandonWrite s).fbuf = s.fbuf := rfl
@[simp] theorem abandonWrite_len : (abandonWrite s).len = s.len := rfl
@[simp] theorem abandonWrite_w : (abandonWrite s).w = s.w := rfl
@[simp] theorem abandonWrite_frResult : (abandonWrite s).frResult = s.frResult := rfl
@[simp] theorem abandonWrite_wire : (abandonWrite s).wire = s.wire ++ s.fbuf.readBytes s.w (min s.env.abandoned (s.len - s.w)) := rfl
@[simp] theorem abandonWrite_rbuf : (abandonWrite s).rbuf = s.rbuf := rfl
@[simp] theorem abandonWrite_fill : (abandonWrite s).fill = s.fill := rfl
@[simp] theorem abandonWrite_stopped : (abandonWrite s).stopped = s.stopped := rfl
@[simp] theorem abandonWrite_sink : (abandonWrite s).sink = s.sink := rfl
@[simp] theorem abandonWrite_fault : (abandonWrite s).fault = s.fault := rfl
@[simp] theorem abandonWrite_refused : (abandonWrite s).refused = s.refused := rfl
@[simp] theorem abandonWrite_inputs : (abandonWrite s).inputs = s.inputs := rfl
@[simp] theorem abandonWrite_later : (abandonWrite s).later = s.later := rfl
@[simp] theorem abandonWrite_held : (abandonWrite s).held = s.held := rfl
@[simp] theorem abandonWrite_env : (abandonWrite s).env = s.env := rfl
@[simp] theorem abandonWrite_returned : (abandonWrite s).returned = s.returned := rfl

@[simp] theorem clearRegisters_cfg : (clearRegisters s).cfg = s.cfg := rfl
@[simp] theorem clearRegisters_frPhase : (clearRegisters s).frPhase = .idle := rfl
@[simp] theorem clearRegisters_fbuf : (clearRegisters s).fbuf = s.fbuf := rfl
@[simp] theorem clearRegisters_len : (clearRegisters s).len = 0 := rfl
@[simp] theorem clearRegisters_w : (clearRegisters s).w = 0 := rfl
@[simp] theorem clearRegisters_frResult : (clearRegisters s).frResult = .none := rfl
@[simp] theorem clearRegisters_wire : (clearRegisters s).wire = s.wire := rfl
@[simp] theorem clearRegisters_rbuf : (clearRegisters s).rbuf = s.rbuf := rfl
@[simp] theorem clearRegisters_fill : (clearRegisters s).fill = 0 := rfl
@[simp] theorem clearRegisters_stopped : (clearRegisters s).stopped = false := rfl
@[simp] theorem clearRegisters_sink : (clearRegisters s).sink = s.sink := rfl
@[simp] theorem clearRegisters_fault : (clearRegisters s).fault = s.fault := rfl
@[simp] theorem clearRegisters_refused : (clearRegisters s).refused = s.refused := rfl
@[simp] theorem clearRegisters_inputs : (clearRegisters s).inputs = s.inputs := rfl
@[simp] theorem clearRegisters_later : (clearRegisters s).later = s.later := rfl
@[simp] theorem clearRegisters_held : (clearRegisters s).held = s.held := rfl
@[simp] theorem clearRegisters_env : (clearRegisters s).env = s.env := rfl
@[simp] theorem clearRegisters_returned : (clearRegisters s).returned = none := rfl

@[simp] theorem takeMove_cfg (x : Input) (rest : List Input) : (takeMove x rest s).cfg = s.cfg := rfl
@[simp] theorem takeMove_frPhase (x : Input) (rest : List Input) : (takeMove x rest s).frPhase = s.frPhase := rfl
@[simp] theorem takeMove_fbuf (x : Input) (rest : List Input) : (takeMove x rest s).fbuf = s.fbuf := rfl
@[simp] theorem takeMove_len (x : Input) (rest : List Input) : (takeMove x rest s).len = s.len := rfl
@[simp] theorem takeMove_w (x : Input) (rest : List Input) : (takeMove x rest s).w = s.w := rfl
@[simp] theorem takeMove_frResult (x : Input) (rest : List Input) : (takeMove x rest s).frResult = s.frResult := rfl
@[simp] theorem takeMove_wire (x : Input) (rest : List Input) : (takeMove x rest s).wire = s.wire := rfl
@[simp] theorem takeMove_rbuf (x : Input) (rest : List Input) : (takeMove x rest s).rbuf = s.rbuf := rfl
@[simp] theorem takeMove_fill (x : Input) (rest : List Input) : (takeMove x rest s).fill = s.fill := rfl
@[simp] theorem takeMove_stopped (x : Input) (rest : List Input) : (takeMove x rest s).stopped = s.stopped := rfl
@[simp] theorem takeMove_sink (x : Input) (rest : List Input) : (takeMove x rest s).sink = s.sink := rfl
@[simp] theorem takeMove_fault (x : Input) (rest : List Input) : (takeMove x rest s).fault = s.fault := rfl
@[simp] theorem takeMove_refused (x : Input) (rest : List Input) : (takeMove x rest s).refused = s.refused := rfl
@[simp] theorem takeMove_inputs (x : Input) (rest : List Input) : (takeMove x rest s).inputs = rest := rfl
@[simp] theorem takeMove_later (x : Input) (rest : List Input) : (takeMove x rest s).later = s.later := rfl
@[simp] theorem takeMove_held (x : Input) (rest : List Input) : (takeMove x rest s).held = s.held := rfl
@[simp] theorem takeMove_env (x : Input) (rest : List Input) : (takeMove x rest s).env = x.env := rfl
@[simp] theorem takeMove_returned (x : Input) (rest : List Input) : (takeMove x rest s).returned = none := rfl

@[simp] theorem takeHeld_cfg (place : Nat) : (takeHeld place s).cfg = s.cfg := rfl
@[simp] theorem takeHeld_frPhase (place : Nat) : (takeHeld place s).frPhase = s.frPhase := rfl
@[simp] theorem takeHeld_fbuf (place : Nat) : (takeHeld place s).fbuf = s.fbuf := rfl
@[simp] theorem takeHeld_len (place : Nat) : (takeHeld place s).len = s.len := rfl
@[simp] theorem takeHeld_w (place : Nat) : (takeHeld place s).w = s.w := rfl
@[simp] theorem takeHeld_frResult (place : Nat) : (takeHeld place s).frResult = s.frResult := rfl
@[simp] theorem takeHeld_wire (place : Nat) : (takeHeld place s).wire = s.wire := rfl
@[simp] theorem takeHeld_rbuf (place : Nat) : (takeHeld place s).rbuf = s.rbuf := rfl
@[simp] theorem takeHeld_fill (place : Nat) : (takeHeld place s).fill = s.fill := rfl
@[simp] theorem takeHeld_stopped (place : Nat) : (takeHeld place s).stopped = s.stopped := rfl
@[simp] theorem takeHeld_sink (place : Nat) : (takeHeld place s).sink = s.sink := rfl
@[simp] theorem takeHeld_fault (place : Nat) : (takeHeld place s).fault = s.fault := rfl
@[simp] theorem takeHeld_refused (place : Nat) : (takeHeld place s).refused = s.refused := rfl
@[simp] theorem takeHeld_inputs (place : Nat) : (takeHeld place s).inputs = s.inputs := rfl
@[simp] theorem takeHeld_later (place : Nat) : (takeHeld place s).later = s.later := rfl
@[simp] theorem takeHeld_held (place : Nat) : (takeHeld place s).held = s.held.eraseIdx place := rfl
@[simp] theorem takeHeld_env (place : Nat) : (takeHeld place s).env = s.env := rfl
@[simp] theorem takeHeld_returned (place : Nat) : (takeHeld place s).returned = s.returned := rfl

@[simp] theorem refill_cfg : (refill s).cfg = s.cfg := by unfold refill; split <;> rfl
@[simp] theorem refill_frPhase : (refill s).frPhase = s.frPhase := by unfold refill; split <;> rfl
@[simp] theorem refill_fbuf : (refill s).fbuf = s.fbuf := by unfold refill; split <;> rfl
@[simp] theorem refill_len : (refill s).len = s.len := by unfold refill; split <;> rfl
@[simp] theorem refill_w : (refill s).w = s.w := by unfold refill; split <;> rfl
@[simp] theorem refill_frResult : (refill s).frResult = s.frResult := by unfold refill; split <;> rfl
@[simp] theorem refill_wire : (refill s).wire = s.wire := by unfold refill; split <;> rfl
@[simp] theorem refill_rbuf : (refill s).rbuf = s.rbuf := by unfold refill; split <;> rfl
@[simp] theorem refill_fill : (refill s).fill = s.fill := by unfold refill; split <;> rfl
@[simp] theorem refill_stopped : (refill s).stopped = s.stopped := by unfold refill; split <;> rfl
@[simp] theorem refill_sink : (refill s).sink = s.sink := by unfold refill; split <;> rfl
@[simp] theorem refill_fault : (refill s).fault = s.fault := by unfold refill; split <;> rfl
@[simp] theorem refill_refused : (refill s).refused = s.refused := by unfold refill; split <;> rfl
@[simp] theorem refill_held : (refill s).held = s.held := by unfold refill; split <;> rfl
@[simp] theorem refill_env : (refill s).env = s.env := by unfold refill; split <;> rfl
@[simp] theorem refill_returned : (refill s).returned = s.returned := by unfold refill; split <;> rfl

/-- Listed moves come first. -/
theorem refill_of_inputs {s : State} {x : Input} {rest : List Input} (h : s.inputs = x :: rest) : refill s = s := by
  unfold refill
  split <;> simp_all

/-- Where no move is to come, none is listed. -/
theorem refill_of_nil {s : State} (h : (refill s).inputs = []) : refill s = s := by
  obtain ⟨⟩ := s
  unfold refill at h ⊢
  split at h <;> simp_all

end Sys2Proof.Machine
end

