-- ==== Sys2Proof/Laws/Exec.lean ====
section
/-! SUPPORT. What each operation can do, said once: one case lemma per meaning, and the inversion of `exec`, which later
proofs cite instead of unfolding a meaning. -/

namespace Sys2Proof.Machine

/-! ## The phase -/

@[simp] theorem busy_iff (s : State) : s.busy = true ↔ s.frPhase = .sending := by
  simp [State.busy]

@[simp] theorem not_busy_iff (s : State) : s.busy = false ↔ s.frPhase = .idle := by
  cases h : s.frPhase <;> simp [State.busy, h]

theorem busy_of_sending {s : State} (h : s.frPhase = .sending) : s.busy = true := (busy_iff s).2 h

theorem not_busy_of_idle {s : State} (h : s.frPhase = .idle) : s.busy = false := (not_busy_iff s).2 h

theorem idle_of_not {s : State} (h : ¬s.busy = true) : s.frPhase = .idle :=
  (not_busy_iff s).1 (Bool.eq_false_iff.2 h)

theorem sending_of_not {s : State} (h : ¬(!s.busy) = true) : s.frPhase = .sending :=
  (busy_iff s).1 (by simpa only [Bool.not_eq_true', Bool.not_eq_false] using h)

theorem idle_of_bnot {s : State} (h : (!s.busy) = true) : s.frPhase = .idle :=
  (not_busy_iff s).1 (by simpa only [Bool.not_eq_true'] using h)

theorem fits_iff (p : Params) (n : Nat) : fits p n = true ↔ ∀ most, p.maxWords = some most → n ≤ most := by
  cases h : p.maxWords <;> simp [fits, h]

theorem not_fits_iff (p : Params) (n : Nat) :
    fits p n = false ↔ ∃ most, p.maxWords = some most ∧ most < n := by
  cases h : p.maxWords <;> simp [fits, h]

/-- The block and sample counts as numerals, for arithmetic (R7). -/
theorem blockBytes_eq : Config.blockBytes = 3072 := rfl

theorem samples_eq : Config.samples = 1024 := rfl

theorem taken_eq (m : Nat) (s : State) : taken m s = min m (3072 - s.fill) := rfl

/-! ## What a meaning can do -/

/-- Every way an operation changes the state, with the condition under which it does (the rules' own cases). -/
inductive Effect : Instr → State → State → Prop where
  /-- A malformed operand list (R70). -/
  | refusal {i s} (h : i.wf = false) : Effect i s (recordRefusal s)
  /-- A request while SENDING (R130). -/
  | hold {i s} (hi : holds i = true) (hw : i.wf = true) (h : s.frPhase = .sending) : Effect i s (hold i s)
  /-- SEND on a closed transport (R111). -/
  | sendClosed {ws s} (h : s.frPhase = .idle) (ho : s.env.transportOpen = false) :
      Effect (.send ws.length ws) s (completeSend .transportError s)
  /-- SEND of an oversized frame, or a failed draw (R112). -/
  | sendNoRoom {ws s} (h : s.frPhase = .idle) (ho : s.env.transportOpen = true)
      (ha : fits s.cfg ws.length = false ∨ s.env.allocOk = false) :
      Effect (.send ws.length ws) s (completeSend .allocationError s)
  /-- SEND of an empty frame (R78). -/
  | sendEmpty {ws s} (h : s.frPhase = .idle) (ho : s.env.transportOpen = true)
      (hf : fits s.cfg ws.length = true) (ha : s.env.allocOk = true) (hl : frameLength s.cfg ws.length = 0) :
      Effect (.send ws.length ws) s (completeSend .ok (loadFrame ws.length ws s))
  /-- SEND that makes its first write call (R78). -/
  | sendStart {ws s} (h : s.frPhase = .idle) (ho : s.env.transportOpen = true)
      (hf : fits s.cfg ws.length = true) (ha : s.env.allocOk = true) (hl : 0 < frameLength s.cfg ws.length) :
      Effect (.send ws.length ws) s (startSending (loadFrame ws.length ws s))
  /-- An answer with no write call pending (R79; log 7). -/
  | noCall {i s} (hi : (∃ k, i = .xferWrote k) ∨ ∃ k, i = .xferError k) (h : s.frPhase = .idle) :
      Effect i s (returningNothing s)
  /-- `Wrote(k)` beyond the offer (R80). -/
  | overreport {k s} (h : s.frPhase = .sending) (hk : s.len - s.w < k) :
      Effect (.xferWrote k) s (recordFault s)
  /-- `Wrote(k)` that completes the SEND (R79). -/
  | wroteLast {k s} (h : s.frPhase = .sending) (hk : k ≤ s.len - s.w) (hw : s.w + k = s.len) :
      Effect (.xferWrote k) s (completeSend .ok (advance k s))
  /-- `Wrote(k)` that leaves a remainder (R79). -/
  | wrotePart {k s} (h : s.frPhase = .sending) (hk : k ≤ s.len - s.w) (hw : s.w + k ≠ s.len) :
      Effect (.xferWrote k) s (returningNothing (advance k s))
  /-- `WriteError` (R79). -/
  | writeError {k s} (h : s.frPhase = .sending) : Effect (.xferError k) s (completeSend .transportError s)
  /-- ENCODE (R76). -/
  | encode {reg val s} : Effect (.encode reg val) s (returning (.encoded (opword s.cfg reg val)) s)
  /-- ACCEPT while stopped (R94). -/
  | acceptStopped {bs s} (h : s.frPhase = .idle) (hs : s.stopped = true) :
      Effect (.accept bs.length bs) s (returning (.accepted .stopped) s)
  /-- ACCEPT of no byte (R93). -/
  | acceptClosed {s} (h : s.frPhase = .idle) (hs : s.stopped = false) :
      Effect (.accept 0 []) s (returning (.accepted .closed) s)
  /-- ACCEPT that leaves the block partly filled (R91). -/
  | acceptPart {bs s} (h : s.frPhase = .idle) (hs : s.stopped = false) (hb : bs ≠ [])
      (hf : s.fill + (bs.take (taken bs.length s)).length ≠ 3072) :
      Effect (.accept bs.length bs) s
        (returning (.accepted .appended) (appendRaw (bs.take (taken bs.length s)) s))
  /-- ACCEPT that fills the block (R91, R97, R98). -/
  | acceptFull {bs s} (h : s.frPhase = .idle) (hs : s.stopped = false) (hb : bs ≠ [])
      (hf : s.fill + (bs.take (taken bs.length s)).length = 3072) :
      Effect (.accept bs.length bs) s (finishBlock (appendRaw (bs.take (taken bs.length s)) s))
  /-- UNPACK of a full block (R96). -/
  | unpack {s} (h : s.fill = 3072) :
      Effect .unpack s (returning (.unpacked (unpackLogic s.rbuf) (unpackAnalog s.rbuf)) s)
  /-- DISCARD (R99). -/
  | discard {s} (h : s.frPhase = .idle) : Effect .discard s (returningNothing (clearFill s))
  /-- The first STOP (R100). -/
  | stopFirst {s} (h : s.frPhase = .idle) (hs : s.stopped = false) :
      Effect .stop s (returningNothing (emit .onEndOfStream (clearFill (latchStop s))))
  /-- A later STOP (R101). -/
  | stopAgain {s} (h : s.frPhase = .idle) (hs : s.stopped = true) : Effect .stop s (returningNothing s)
  /-- RESET of an idle framer (R125). -/
  | resetIdle {s} (h : s.frPhase = .idle) : Effect .reset s (clearRegisters s)
  /-- RESET that abandons a SEND (R125). -/
  | resetSending {s} (h : s.frPhase = .sending) : Effect .reset s (clearRegisters (abandonWrite s))

theorem sendNext_effect (n : Nat) (ws : List Word) (s : State) : Effect (.send n ws) s (sendNext n ws s) := by
  unfold sendNext
  split
  · exact .refusal (by simpa [Instr.wf] using ‹_›)
  · rename_i hn
    obtain rfl : ws.length = n := by simpa using hn
    split
    · exact .hold rfl (by simp [Instr.wf]) ((busy_iff s).1 ‹_›)
    · rename_i hb
      have hi : s.frPhase = .idle := idle_of_not hb
      split
      · rename_i ho; exact .sendClosed hi (by simpa using ho)
      · rename_i ho
        have ho : s.env.transportOpen = true := by simpa using ho
        split
        · rename_i hfa; exact .sendNoRoom hi ho (by simpa using hfa)
        · rename_i hfa
          obtain ⟨hf, ha⟩ : fits s.cfg ws.length = true ∧ s.env.allocOk = true := by simpa using hfa
          unfold buildAndStart
          dsimp only
          split
          · rename_i hl; exact .sendEmpty hi ho hf ha hl
          · rename_i hl; exact .sendStart hi ho hf ha (Nat.pos_of_ne_zero hl)

theorem xferWroteNext_effect (k : Nat) (s : State) : Effect (.xferWrote k) s (xferWroteNext k s) := by
  unfold xferWroteNext
  split
  · rename_i hb; exact .noCall (.inl ⟨k, rfl⟩) (idle_of_bnot hb)
  · rename_i hb
    have hs : s.frPhase = .sending := sending_of_not hb
    split
    · exact .overreport hs ‹_›
    · rename_i hk
      dsimp only
      split
      · rename_i hw; exact .wroteLast hs (Nat.le_of_not_lt hk) hw
      · rename_i hw; exact .wrotePart hs (Nat.le_of_not_lt hk) hw

theorem xferErrorNext_effect (k : Nat) (s : State) : Effect (.xferError k) s (xferErrorNext s) := by
  unfold xferErrorNext
  split
  · rename_i hb; exact .noCall (.inr ⟨k, rfl⟩) (idle_of_bnot hb)
  · rename_i hb; exact .writeError (sending_of_not hb)

theorem acceptNext_effect (m : Nat) (bs : List Byte) (s : State) : Effect (.accept m bs) s (acceptNext m bs s) := by
  unfold acceptNext
  split
  · exact .refusal (by simpa [Instr.wf] using ‹_›)
  · rename_i hm
    obtain rfl : bs.length = m := by simpa using hm
    split
    · exact .hold rfl (by simp [Instr.wf]) ((busy_iff s).1 ‹_›)
    · rename_i hb
      have hi : s.frPhase = .idle := idle_of_not hb
      split
      · exact .acceptStopped hi ‹_›
      · rename_i hs
        have hs : s.stopped = false := by simpa using hs
        split
        · rename_i h0
          obtain rfl : bs = [] := List.eq_nil_of_length_eq_zero h0
          exact .acceptClosed hi hs
        · rename_i h0
          have hne : bs ≠ [] := fun h => h0 (by simp [h])
          dsimp only
          split
          · rename_i hf; exact .acceptFull hi hs hne hf
          · rename_i hf; exact .acceptPart hi hs hne hf

theorem discardNext_effect (s : State) : Effect .discard s (discardNext s) := by
  unfold discardNext
  split
  · exact .hold rfl rfl ((busy_iff s).1 ‹_›)
  · rename_i hb; exact .discard (idle_of_not hb)

theorem stopNext_effect (s : State) : Effect .stop s (stopNext s) := by
  unfold stopNext
  split
  · exact .hold rfl rfl ((busy_iff s).1 ‹_›)
  · rename_i hb
    split
    · exact .stopAgain (idle_of_not hb) ‹_›
    · rename_i hs; exact .stopFirst (idle_of_not hb) (by simpa using hs)

theorem reset_effect (s : State) :
    Effect .reset s (clearRegisters (if s.busy then abandonWrite s else s)) := by
  split
  · exact .resetSending ((busy_iff s).1 ‹_›)
  · rename_i hb; exact .resetIdle (idle_of_not hb)

/-- The inversion of `exec`: a next state is the effect of one case. -/
theorem exec_effect {i : Instr} {s t : State} (h : exec i s = .next t) : Effect i s t := by
  cases i with
  | reset => cases h; exact reset_effect s
  | send n ws => cases h; exact sendNext_effect n ws s
  | accept m bs => cases h; exact acceptNext_effect m bs s
  | discard => cases h; exact discardNext_effect s
  | stop => cases h; exact stopNext_effect s
  | encode reg val => cases h; exact .encode
  | xferWrote k => cases h; exact xferWroteNext_effect k s
  | xferError k => cases h; exact xferErrorNext_effect k s
  | unpack =>
    simp only [exec, execUnpack] at h
    split at h
    · cases h; exact .unpack ‹_›
    · cases h

/-- Every instruction but UNPACK answers a next state in every state (R102). -/
theorem exec_next (i : Instr) (hi : i ≠ .unpack) (s : State) : ∃ t, exec i s = .next t := by
  cases i with
  | unpack => exact absurd rfl hi
  | _ => exact ⟨_, rfl⟩

/-- The one fault, and the only way to it (R95). -/
theorem exec_unpack_fault (s : State) (h : s.fill ≠ 3072) :
    exec .unpack s = .fault .blockNotFull := by
  simp only [exec, execUnpack, if_neg h]

/-! ## Each case, forward -/

section forward
variable {s : State}

theorem exec_hold {i : Instr} (hi : holds i = true) (hw : i.wf = true) (h : s.frPhase = .sending) :
    exec i s = .next (hold i s) := by
  cases i <;>
    simp_all [exec, execSend, execAccept, execDiscard, execStop, sendNext, acceptNext, discardNext, stopNext,
      holds, Instr.wf]

theorem exec_send_closed (ws : List Word) (h : s.frPhase = .idle) (ho : s.env.transportOpen = false) :
    exec (.send ws.length ws) s = .next (completeSend .transportError s) := by
  simp [exec, execSend, sendNext, not_busy_of_idle h, ho]

theorem exec_send_noRoom (ws : List Word) (h : s.frPhase = .idle) (ho : s.env.transportOpen = true)
    (ha : fits s.cfg ws.length = false ∨ s.env.allocOk = false) :
    exec (.send ws.length ws) s = .next (completeSend .allocationError s) := by
  rcases ha with ha | ha <;> simp [exec, execSend, sendNext, not_busy_of_idle h, ho, ha]

theorem exec_send_built (ws : List Word) (h : s.frPhase = .idle) (ho : s.env.transportOpen = true)
    (hf : fits s.cfg ws.length = true) (ha : s.env.allocOk = true) :
    exec (.send ws.length ws) s = .next (if frameLength s.cfg ws.length = 0
      then completeSend .ok (loadFrame ws.length ws s) else startSending (loadFrame ws.length ws s)) := by
  simp [exec, execSend, sendNext, not_busy_of_idle h, ho, hf, ha]
  rfl

theorem exec_send_empty (ws : List Word) (h : s.frPhase = .idle) (ho : s.env.transportOpen = true)
    (hf : fits s.cfg ws.length = true) (ha : s.env.allocOk = true) (hl : frameLength s.cfg ws.length = 0) :
    exec (.send ws.length ws) s = .next (completeSend .ok (loadFrame ws.length ws s)) := by
  rw [exec_send_built ws h ho hf ha, if_pos hl]

theorem exec_send_start (ws : List Word) (h : s.frPhase = .idle) (ho : s.env.transportOpen = true)
    (hf : fits s.cfg ws.length = true) (ha : s.env.allocOk = true) (hl : 0 < frameLength s.cfg ws.length) :
    exec (.send ws.length ws) s = .next (startSending (loadFrame ws.length ws s)) := by
  rw [exec_send_built ws h ho hf ha, if_neg (Nat.ne_of_gt hl)]

theorem exec_wrote_over {k : Nat} (h : s.frPhase = .sending) (hk : s.len - s.w < k) :
    exec (.xferWrote k) s = .next (recordFault s) := by
  simp [exec, execXferWrote, xferWroteNext, busy_of_sending h, hk]

theorem exec_wrote_last {k : Nat} (h : s.frPhase = .sending) (hk : k ≤ s.len - s.w) (hw : s.w + k = s.len) :
    exec (.xferWrote k) s = .next (completeSend .ok (advance k s)) := by
  simp [exec, execXferWrote, xferWroteNext, busy_of_sending h, Nat.not_lt.2 hk, hw]

theorem exec_wrote_part {k : Nat} (h : s.frPhase = .sending) (hk : k ≤ s.len - s.w) (hw : s.w + k ≠ s.len) :
    exec (.xferWrote k) s = .next (returningNothing (advance k s)) := by
  simp [exec, execXferWrote, xferWroteNext, busy_of_sending h, Nat.not_lt.2 hk, hw]

theorem exec_wrote_idle (k : Nat) (h : s.frPhase = .idle) :
    exec (.xferWrote k) s = .next (returningNothing s) := by
  simp [exec, execXferWrote, xferWroteNext, not_busy_of_idle h]

theorem exec_error_sending (k : Nat) (h : s.frPhase = .sending) :
    exec (.xferError k) s = .next (completeSend .transportError s) := by
  simp [exec, execXferError, xferErrorNext, busy_of_sending h]

theorem exec_error_idle (k : Nat) (h : s.frPhase = .idle) :
    exec (.xferError k) s = .next (returningNothing s) := by
  simp [exec, execXferError, xferErrorNext, not_busy_of_idle h]

theorem exec_accept_stopped (bs : List Byte) (h : s.frPhase = .idle) (hs : s.stopped = true) :
    exec (.accept bs.length bs) s = .next (returning (.accepted .stopped) s) := by
  simp [exec, execAccept, acceptNext, not_busy_of_idle h, hs]

theorem exec_accept_closed (h : s.frPhase = .idle) (hs : s.stopped = false) :
    exec (.accept 0 []) s = .next (returning (.accepted .closed) s) := by
  simp [exec, execAccept, acceptNext, not_busy_of_idle h, hs]

theorem exec_accept_taken_part (bs : List Byte) (h : s.frPhase = .idle) (hs : s.stopped = false) (hb : bs ≠ [])
    (hf : s.fill + (bs.take (taken bs.length s)).length ≠ 3072) :
    exec (.accept bs.length bs) s =
      .next (returning (.accepted .appended) (appendRaw (bs.take (taken bs.length s)) s)) := by
  simp only [exec, execAccept, acceptNext, not_busy_of_idle h, hs]
  simp only [List.length_take] at hf
  simp [hb, blockBytes_eq, hf]

theorem exec_accept_taken_full (bs : List Byte) (h : s.frPhase = .idle) (hs : s.stopped = false) (hb : bs ≠ [])
    (hf : s.fill + (bs.take (taken bs.length s)).length = 3072) :
    exec (.accept bs.length bs) s = .next (finishBlock (appendRaw (bs.take (taken bs.length s)) s)) := by
  simp only [exec, execAccept, acceptNext, not_busy_of_idle h, hs]
  simp only [List.length_take] at hf
  simp [hb, blockBytes_eq, hf]

theorem exec_accept_part (bs : List Byte) (h : s.frPhase = .idle) (hs : s.stopped = false) (hb : bs ≠ [])
    (hf : s.fill + bs.length < 3072) :
    exec (.accept bs.length bs) s = .next (returning (.accepted .appended) (appendRaw bs s)) := by
  have ht : taken bs.length s = bs.length := by rw [taken_eq]; omega
  simp [exec, execAccept, acceptNext, not_busy_of_idle h, hs, hb, ht, Nat.ne_of_lt hf]

theorem exec_accept_full (bs : List Byte) (h : s.frPhase = .idle) (hs : s.stopped = false)
    (hl : s.fill < 3072) (hf : 3072 ≤ s.fill + bs.length) :
    exec (.accept bs.length bs) s =
      .next (finishBlock (appendRaw (bs.take (3072 - s.fill)) s)) := by
  have hb : bs ≠ [] := by rintro rfl; simp only [List.length_nil] at hf; omega
  have ht : taken bs.length s = 3072 - s.fill := by rw [taken_eq]; omega
  have hlen : s.fill + min (3072 - s.fill) bs.length = 3072 := by omega
  simp [exec, execAccept, acceptNext, not_busy_of_idle h, hs, hb, ht, hlen]

theorem exec_unpack_full (h : s.fill = 3072) :
    exec .unpack s = .next (returning (.unpacked (unpackLogic s.rbuf) (unpackAnalog s.rbuf)) s) := by
  simp only [exec, execUnpack, if_pos h]

theorem exec_discard (h : s.frPhase = .idle) : exec .discard s = .next (returningNothing (clearFill s)) := by
  simp [exec, execDiscard, discardNext, not_busy_of_idle h]

theorem exec_stop_first (h : s.frPhase = .idle) (hs : s.stopped = false) :
    exec .stop s = .next (returningNothing (emit .onEndOfStream (clearFill (latchStop s)))) := by
  simp [exec, execStop, stopNext, not_busy_of_idle h, hs]

theorem exec_stop_again (h : s.frPhase = .idle) (hs : s.stopped = true) :
    exec .stop s = .next (returningNothing s) := by
  simp [exec, execStop, stopNext, not_busy_of_idle h, hs]

theorem exec_reset_idle (h : s.frPhase = .idle) : exec .reset s = .next (clearRegisters s) := by
  simp [exec, execReset, not_busy_of_idle h]

theorem exec_reset_sending (h : s.frPhase = .sending) :
    exec .reset s = .next (clearRegisters (abandonWrite s)) := by
  simp [exec, execReset, busy_of_sending h]

theorem exec_malformed {i : Instr} (h : i.wf = false) : exec i s = .next (recordRefusal s) := by
  cases i <;> simp_all [exec, execSend, execAccept, sendNext, acceptNext, Instr.wf]

end forward

/-! ## The step -/

/-- A listed move is fetched. -/
theorem fetch_of_inputs {s : State} {x : Input} {rest : List Input} (h : s.inputs = x :: rest) :
    fetch s = fetchMove x.move (takeMove x rest s) := by
  simp only [fetch, refill_of_inputs h, h]

/-- Listing the next moves first changes no step. -/
theorem step_refill (s : State) : step (refill s) = step s := by
  cases h : (refill s).inputs with
  | nil => rw [refill_of_nil h]
  | cons x rest => simp only [step, fetch, refill_of_inputs h, h]

/-- The inversion of `step`: an instruction ran in the fetched state, or the fetched state is the next. -/
theorem step_cases {s t : State} (h : step s = .next t) :
    (∃ i u, fetch s = .run i u ∧ Effect i u t) ∨ fetch s = .quiet t := by
  unfold step at h
  split at h
  · exact .inl ⟨_, _, ‹_›, exec_effect h⟩
  · cases h; exact .inr ‹_›

/-- What a fetched instruction is: a decoded request, an answer, or a request that waited. -/
theorem fetch_run {s u : State} {i : Instr} (h : fetch s = .run i u) :
    ∃ x rest, (refill s).inputs = x :: rest ∧
      ((∃ r, x.move = .request r ∧ decodeCommand r = .ok i ∧ u = takeMove x rest (refill s)) ∨
       (∃ r, x.move = .answer r ∧ decodeAnswer r = i ∧ u = takeMove x rest (refill s)) ∨
       (∃ place, x.move = .retry place ∧ s.held[place]? = some i ∧ u = takeHeld place (takeMove x rest (refill s)))) := by
  unfold fetch at h
  split at h
  · cases h
  · rename_i x rest hin
    refine ⟨x, rest, hin, ?_⟩
    unfold fetchMove at h
    split at h
    · split at h
      · cases h; exact .inl ⟨_, ‹_›, ‹_›, rfl⟩
      · cases h
    · split at h
      · rename_i hr
        cases h
        exact .inr (.inr ⟨_, ‹_›, by simpa using hr, rfl⟩)
      · cases h
    · cases h; exact .inr (.inl ⟨_, ‹_›, rfl, rfl⟩)

/-- What a step without an instruction does: nothing, the taken move only, or a refusal. -/
theorem fetch_quiet {s u : State} (h : fetch s = .quiet u) :
    u = s ∨ ∃ x rest, (refill s).inputs = x :: rest ∧
      (u = takeMove x rest (refill s) ∨ u = recordRefusal (takeMove x rest (refill s))) := by
  unfold fetch at h
  split at h
  · cases h; exact .inl rfl
  · rename_i x rest hin
    refine .inr ⟨x, rest, hin, ?_⟩
    unfold fetchMove at h
    split at h
    · split at h
      · cases h
      · cases h; exact .inr rfl
    · split at h
      · cases h
      · cases h; exact .inl rfl
    · cases h

end Sys2Proof.Machine
end

