-- ==== Sys2Proof/Laws/PerInstr.lean ====
section
/-! SUPPORT. Families of statements made once per constructor of Instr (LAWS.json). -/

/-- The record of a well-formed instruction is one of the grammar: an assigned code, its operand form, a list of the
stated length (30_encoding.md R68, R69). -/
def Sys2Proof.Laws.EncodeWf.Statement (i : Sys2Proof.Instr) : Prop :=
  i.wf = true → (Sys2Proof.encode i).wf = true

theorem Sys2Proof.Laws.EncodeWf.reset : Sys2Proof.Laws.EncodeWf.Statement .reset := fun _ => rfl

theorem Sys2Proof.Laws.EncodeWf.send (n : Nat) (words : List Sys2Proof.Word) :
    Sys2Proof.Laws.EncodeWf.Statement (.send n words) := fun h => by
  simpa [Sys2Proof.encode, Sys2Proof.Record.wf, Sys2Proof.CommandRecord.wf, Sys2Proof.Operands.wf,
    Sys2Proof.Instr.wf] using h

theorem Sys2Proof.Laws.EncodeWf.accept (m : Nat) (bytes : List Sys2Proof.Byte) :
    Sys2Proof.Laws.EncodeWf.Statement (.accept m bytes) := fun h => by
  simpa [Sys2Proof.encode, Sys2Proof.Record.wf, Sys2Proof.CommandRecord.wf, Sys2Proof.Operands.wf,
    Sys2Proof.Instr.wf] using h

theorem Sys2Proof.Laws.EncodeWf.discard : Sys2Proof.Laws.EncodeWf.Statement .discard := fun _ => rfl

theorem Sys2Proof.Laws.EncodeWf.stop : Sys2Proof.Laws.EncodeWf.Statement .stop := fun _ => rfl

theorem Sys2Proof.Laws.EncodeWf.encode (reg : Nat) (val : Sys2Proof.Byte) :
    Sys2Proof.Laws.EncodeWf.Statement (.encode reg val) := fun _ => rfl

theorem Sys2Proof.Laws.EncodeWf.xferWrote (k : Nat) : Sys2Proof.Laws.EncodeWf.Statement (.xferWrote k) :=
  fun _ => rfl

theorem Sys2Proof.Laws.EncodeWf.xferError (k : Nat) : Sys2Proof.Laws.EncodeWf.Statement (.xferError k) :=
  fun _ => rfl

theorem Sys2Proof.Laws.EncodeWf.unpack : Sys2Proof.Laws.EncodeWf.Statement .unpack := fun _ => rfl
end

