-- ==== Sys2Proof/Laws/Safety.lean ====
section
/-! SUPPORT. Runs of several operations, the relations between states, and the parameters at device open. -/

namespace Sys2Proof.Machine

/-- The buffers at device open are in canonical form. -/
theorem reset_buffers_wf : State.reset.fbuf.wf = true ∧ State.reset.rbuf.wf = true := ⟨rfl, rfl⟩

/-- Checked parameters obey the layout law (R77; log 10). -/
theorem checked_lawful (p : Params) : p.checked.lawful = true := by
  unfold Params.checked
  split
  · assumption
  · rfl

@[simp] theorem execAll_nil (s : State) : execAll [] s = .next s := rfl

theorem execAll_cons {i : Instr} {s t : State} (h : exec i s = .next t) (rest : List Instr) :
    execAll (i :: rest) s = execAll rest t := by
  simp only [execAll, h]

/-- A run in two parts. -/
theorem execAll_append (ops more : List Instr) (s t : State) (h : execAll ops s = .next t) :
    execAll (ops ++ more) s = execAll more t := by
  induction ops generalizing s with
  | nil => simp only [execAll] at h; cases h; rfl
  | cons i ops ih =>
    simp only [execAll, List.cons_append] at h ⊢
    split at h <;> simp_all

theorem sameFramer_refl (s : State) : sameFramer s s := by simp [sameFramer]

theorem sameUnpacker_refl (s : State) : sameUnpacker s s := by simp [sameUnpacker]

theorem sameMarks_refl (s : State) : sameMarks s s := by simp [sameMarks]

theorem sameEnvironment_refl (s : State) : sameEnvironment s s := by simp [sameEnvironment]

theorem sameObservable_refl (s : State) : sameObservable s s := ⟨rfl, fun _ _ _ => rfl, fun _ _ => rfl⟩

theorem sameFramer_trans {s t u : State} (h : sameFramer s t) (h' : sameFramer t u) : sameFramer s u := by
  simp_all [sameFramer]

theorem sameUnpacker_trans {s t u : State} (h : sameUnpacker s t) (h' : sameUnpacker t u) : sameUnpacker s u := by
  simp_all [sameUnpacker]

theorem sameMarks_trans {s t u : State} (h : sameMarks s t) (h' : sameMarks t u) : sameMarks s u := by
  simp_all [sameMarks]

theorem sameEnvironment_trans {s t u : State} (h : sameEnvironment s t) (h' : sameEnvironment t u) :
    sameEnvironment s u := by
  simp_all [sameEnvironment]

/-- No instruction writes the moves to come. -/
theorem effect_moves {i : Instr} {s t : State} (h : Effect i s t) : t.inputs = s.inputs ∧ t.later = s.later := by
  cases h <;> simp [finishBlock]

/-- The fetched input was to come, and what is to come after it was to come before. -/
theorem toCome_of_refill {s : State} {x : Input} {rest : List Input} (h : (refill s).inputs = x :: rest) :
    s.toCome x ∧ ∀ (t : State) (y : Input), t.inputs = rest → t.later = (refill s).later → t.toCome y → s.toCome y := by
  obtain ⟨cfg, frPhase, fbuf, len, w, frResult, wire, rbuf, fill, stopped, sink, fault, refused, inputs, later, held,
    env, returned⟩ := s
  simp only [refill] at h ⊢
  split at h
  · simp only [List.cons.injEq] at h
    obtain ⟨rfl, rfl⟩ := h
    refine ⟨.inl (List.mem_cons_self ..), fun t y h1 h2 hy => ?_⟩
    simp only [State.toCome, h1, h2] at hy ⊢
    exact hy.imp_left (List.mem_cons_of_mem _)
  · simp only at h
    subst h
    refine ⟨.inr (List.mem_cons_self ..), fun t y h1 h2 hy => .inr ?_⟩
    simp only [State.toCome, h1, h2] at hy
    exact hy.elim (List.mem_cons_of_mem _) id
  · simp only [List.cons.injEq] at h
    obtain ⟨rfl, rfl⟩ := h
    refine ⟨.inr ⟨_, Nat.le_refl _, rfl⟩, fun t y h1 h2 hy => .inr ?_⟩
    simp only [State.toCome, h1, h2, List.not_mem_nil, false_or] at hy
    obtain ⟨m, hm, rfl⟩ := hy
    exact ⟨m, Nat.le_of_succ_le hm, rfl⟩

@[simp] theorem stepAll_zero (s : State) : stepAll 0 s = .next s := rfl

theorem stepAll_succ {s t : State} (h : step s = .next t) (n : Nat) : stepAll (n + 1) s = stepAll n t := by
  simp only [stepAll, h]

/-- A table row is what `OPWORD` reads for its register when the layout is lawful (R60, R77). -/
theorem find_row (rows : List LayoutRow) (hn : (rows.map (·.reg)).Nodup) (row : LayoutRow) (hr : row ∈ rows) :
    rows.find? (fun r => r.reg == row.reg) = some row := by
  induction rows with
  | nil => simp at hr
  | cons x rows ih =>
    simp only [List.map_cons, List.nodup_cons, List.mem_map, not_exists, not_and] at hn
    rcases List.mem_cons.1 hr with rfl | hr
    · simp
    · have : x.reg ≠ row.reg := fun h => hn.1 row hr h.symm
      simpa [this] using ih hn.2 hr

end Sys2Proof.Machine
end

