-- ==== Sys2Proof/Tests/Slice0.lean ====
section
/-! SUPPORT. Tests against the vectors of spec/95_test_vectors.md (cited as V-DER-*) and the encoding tables of
spec/30_encoding.md, and the witnesses that the hypotheses of the obligations can be met. -/

namespace Sys2Proof.Tests

open Sys2Proof Sys2Proof.Machine

/-! ## States to test on -/

/-- A layout of one register: `OPWORD(5, v)` has 0x05 in its high byte. Invented for the tests; the spec gives no
layout (93_implementation_defined.md I3). -/
def oneRegister : LayoutRow where
  reg := 5
  words := (List.range 256).map (fun v => BitVec.ofNat 16 (0x0500 + v))

/-- The instantiation of 95_test_vectors.md (HDR = 40 4C 44 53 7E, TRL = 7E, from general knowledge). -/
def vectorParams : Params where
  hdr := [0x40, 0x4C, 0x44, 0x53, 0x7E]
  trl := [0x7E]
  maxWords := some 3
  readySentinel := 0x36
  layout := [oneRegister]

/-- An instance without header and trailer (V-DER-S13). -/
def bareParams : Params := { vectorParams with hdr := [], trl := [] }

/-- Device open, with the transport open and allocation granted. -/
def opened : State := { State.resetWith vectorParams with env := calmEnv }

/-- Just after `SEND 0x1234` (95_test_vectors.md 2.3): L = 8, w = 0. -/
def sending : State :=
  { opened with
    frPhase := .sending
    fbuf := Memory.writeBytes [] 0 [0x40, 0x4C, 0x44, 0x53, 0x7E, 0x12, 0x34, 0x7E]
    len := 8 }

/-- The raw block lacks its last three bytes. -/
def nearlyFull : State := { opened with fill := 3069 }

/-- The part of a next state that a test looks at. -/
def after {α : Type} (o : Host.Outcome State Fault Refusal) (look : State → α) : Option α :=
  match o with
  | .next t => some (look t)
  | _ => none

/-- One slot of an emitted or returned pair of arrays. -/
def slotOf (i : Nat) (logic : List Byte) (analog : List Code) : Option Byte × Option Code :=
  (logic[i]?, analog[i]?)

/-- One slot of an event. -/
def eventSlot (i : Nat) : SinkEvent → Option Byte × Option Code
  | .onSamples logic analog => slotOf i logic analog
  | .onEndOfStream => (none, none)

/-- One slot of a returned value. -/
def returnedSlot (i : Nat) : Option Returned → Option Byte × Option Code
  | some (.unpacked logic analog) => slotOf i logic analog
  | _ => (none, none)

/-! ## Well-formedness refuses ill-formed terms -/

theorem test_wf_refuses_short_word_list : (Instr.send 2 [0x1234]).wf = false := by decide
theorem test_wf_refuses_long_byte_list : (Instr.accept 0 [0xEE]).wf = false := by decide
theorem test_wf_refuses_reserved_command :
    (CommandRecord.mk 0x6 .none).wf = false ∧ (CommandRecord.mk 0xF .none).wf = false := by decide
theorem test_wf_refuses_foreign_operands :
    (CommandRecord.mk 0x0 (.words 0 [])).wf = false ∧ (CommandRecord.mk 0x5 .none).wf = false := by decide
theorem test_wf_refuses_short_operands :
    (CommandRecord.mk 0x1 (.words 2 [0x1234])).wf = false ∧ (CommandRecord.mk 0x2 (.bytes 1 [])).wf = false := by
  decide
theorem test_lawful_refuses_short_row :
    Params.lawful { vectorParams with layout := [{ reg := 5, words := [0x0001] }] } = false := by decide
theorem test_lawful_refuses_double_word :
    Params.lawful { vectorParams with layout := [{ reg := 5, words := List.replicate 256 0x0001 }] } = false := by
  decide +kernel

/-! ## Decoding (R68, R73, opcode_table.json) -/

theorem test_word_reset : decodeTableWord 8 0b0000 = some .reset := by decide
theorem test_word_send : decodeTableWord 8 0b0001 = some (.send 0 []) := by decide
theorem test_word_accept : decodeTableWord 8 0b0010 = some (.accept 0 []) := by decide
theorem test_word_discard : decodeTableWord 8 0b0011 = some .discard := by decide
theorem test_word_stop : decodeTableWord 8 0b0100 = some .stop := by decide
theorem test_word_encode : decodeTableWord 8 0b0101 = some (.encode 0 0) := by decide
theorem test_word_wrote : decodeTableWord 1 0b0 = some (.xferWrote 0) := by decide
theorem test_word_error : decodeTableWord 1 0b1 = some (.xferError 0) := by decide
theorem test_word_unpack : decodeTableWord 24 0b001010100001010100101010 = some .unpack := by decide
/-- V-DER-F1, F3: 0x6 is refused beside the legal 0x5. -/
theorem test_reserved_words : (List.range 16).filter (fun c => (decodeTableWord 8 c).isNone) =
    [6, 7, 8, 9, 10, 11, 12, 13, 14, 15] := by decide
/-- V-DER-F2, F1: each refusal has its name. -/
theorem test_refusals_named :
    decodeCommand ⟨0x1, .words 2 [0x1234]⟩ = .error .malformedOperands ∧
    decodeCommand ⟨0x3, .words 0 []⟩ = .error .malformedOperands ∧
    decodeCommand ⟨0x6, .none⟩ = .error .reservedCommand := by decide
/-- V-DER-U1 to U15: (byte0, byte1, byte2), analog, logic. -/
theorem test_triples :
    [ decodeTriple 0x00 0x00 0x00, decodeTriple 0xFF 0xFF 0xFF, decodeTriple 0x3F 0x3F 0x3F, decodeTriple 0xC0 0xC0 0xC0,
      decodeTriple 0x3F 0x00 0x00, decodeTriple 0x00 0x0F 0x00, decodeTriple 0x00 0x30 0x00, decodeTriple 0x00 0x00 0x3F,
      decodeTriple 0x01 0x00 0x00, decodeTriple 0x00 0x01 0x00, decodeTriple 0x00 0x10 0x00, decodeTriple 0x00 0x00 0x01,
      decodeTriple 0x2A 0x15 0x2A, decodeTriple 0x15 0x2A 0x15, decodeTriple 0x80 0x40 0xC1 ] =
    [ ⟨0x000, 0x00⟩, ⟨0x3FF, 0xFF⟩, ⟨0x3FF, 0xFF⟩, ⟨0x000, 0x00⟩, ⟨0x03F, 0x00⟩, ⟨0x3C0, 0x00⟩, ⟨0x000, 0x03⟩,
      ⟨0x000, 0xFC⟩, ⟨0x001, 0x00⟩, ⟨0x040, 0x00⟩, ⟨0x000, 0x01⟩, ⟨0x000, 0x04⟩, ⟨0x16A, 0xA9⟩, ⟨0x295, 0x56⟩,
      ⟨0x000, 0x04⟩ ] := by decide
/-- V-DER-S4 and S5: big-endian words, nothing escaped. -/
theorem test_frames :
    frame vectorParams [0x1234, 0x5678] = [0x40, 0x4C, 0x44, 0x53, 0x7E, 0x12, 0x34, 0x56, 0x78, 0x7E] ∧
    frame vectorParams [0x7E7E] = [0x40, 0x4C, 0x44, 0x53, 0x7E, 0x7E, 0x7E, 0x7E] := by decide

/-! ## One step of each instruction -/

/-- V-DER-R1. -/
theorem test_reset_idle :
    after (exec .reset { opened with fill := 2000, stopped := true, frResult := .ok, fault := true })
      (fun t => (t.fill, t.stopped, t.frResult, t.frPhase, t.fault)) =
    some (0, false, .none, .idle, true) := by decide
/-- V-DER-R2 with w = 2 and the draw j = 3. -/
theorem test_reset_sending :
    after (exec .reset { sending with w := 2, env := { calmEnv with abandoned := 3 } })
      (fun t => (t.wire, t.frPhase, t.len, t.w, t.returned)) =
    some ([0x44, 0x53, 0x7E], .idle, 0, 0, none) := by decide
/-- V-DER-S2: what a started SEND offers. -/
theorem test_send_starts :
    after (exec (.send 1 [0x0000]) opened) (fun t => (t.offered, t.len, t.w, t.wire)) =
    some (some [0x40, 0x4C, 0x44, 0x53, 0x7E, 0x00, 0x00, 0x7E], 8, 0, []) := by decide
/-- V-DER-S10, S11 and S13: the frame too long, the open check first, the empty frame. -/
theorem test_send_completes_at_once :
    after (exec (.send 4 [0, 0, 0, 0]) opened) (·.frResult) = some .allocationError ∧
    after (exec (.send 4 [0, 0, 0, 0]) { opened with env := { calmEnv with transportOpen := false } }) (·.frResult) =
      some .transportError ∧
    after (exec (.send 0 []) { opened with cfg := bareParams }) (fun t => (t.frResult, t.frPhase)) =
      some (.ok, .idle) := by decide
/-- V-DER-X3, its first answer, and V-DER-X1. -/
theorem test_wrote :
    after (exec (.xferWrote 6) sending) (fun t => (t.wire, t.w, t.frPhase)) =
      some ([0x40, 0x4C, 0x44, 0x53, 0x7E, 0x12], 6, .sending) ∧
    after (exec (.xferWrote 8) sending) (fun t => (t.w, t.frPhase, t.frResult)) = some (8, .idle, .ok) := by decide
/-- V-DER-X7: 9 bytes of 8 offered. -/
theorem test_wrote_overreport :
    after (exec (.xferWrote 9) sending) (fun t => (t.fault, t.wire, t.frPhase)) = some (true, [], .sending) := by
  decide
/-- V-DER-X5, its second answer. -/
theorem test_write_error :
    after (exec (.xferError 0) { sending with w := 7 }) (fun t => (t.w, t.frPhase, t.frResult)) =
    some (7, .idle, .transportError) := by decide
/-- V-DER-A1 and A5 to A7. -/
theorem test_accept_outcomes :
    after (exec (.accept 1 [0xEE]) opened) (fun t => (t.fill, t.rbuf, t.returned)) =
      some (1, [(0, 0xEE)], some (.accepted .appended)) ∧
    after (exec (.accept 0 []) { opened with fill := 100 }) (fun t => (t.fill, t.returned)) =
      some (100, some (.accepted .closed)) ∧
    after (exec (.accept 0 []) { opened with stopped := true }) (·.returned) = some (some (.accepted .stopped)) := by
  decide
/-- V-DER-U13 as the last slot of a block, with one byte too many (V-DER-A3). -/
theorem test_accept_fills_block :
    after (exec (.accept 4 [0x2A, 0x15, 0x2A, 0xEE]) nearlyFull)
      (fun t => (t.fill, t.returned, t.rbuf)) =
      some (0, some (.accepted .blockDone), [(3069, 0x2A), (3070, 0x15), (3071, 0x2A)]) ∧
    after (exec (.accept 4 [0x2A, 0x15, 0x2A, 0xEE]) nearlyFull) (fun t => t.sink.map (eventSlot 1023)) =
      some [(some 0xA9, some 0x16A)] := by decide +kernel
/-- V-DER-U14 in slot 0 of a full block. -/
theorem test_unpack_slot :
    after (exec .unpack { opened with fill := 3072, rbuf := [(0, 0x15), (1, 0x2A), (2, 0x15)] })
      (fun t => returnedSlot 0 t.returned) = some (some 0x56, some 0x295) := by decide +kernel
/-- V-DER-D1. -/
theorem test_discard : after (exec .discard { opened with fill := 1500 }) (fun t => (t.fill, t.sink)) =
    some (0, []) := by decide
/-- V-DER-T1 and T2. -/
theorem test_stop :
    after (exec .stop { opened with fill := 10 }) (fun t => (t.stopped, t.fill, t.sink)) =
      some (true, 0, [.onEndOfStream]) ∧
    after (exec .stop { opened with stopped := true }) (·.sink) = some [] := by decide
/-- V-DER-E5: ENCODE while SENDING. -/
theorem test_encode_while_sending :
    after (exec (.encode 5 0x80) sending) (fun t => (t.returned, t.frPhase)) =
    some (some (.encoded 0x0580), .sending) := by decide
/-- V-DER-S12, A8 and T3: the three hold. -/
theorem test_holds :
    after (exec (.send 0 []) sending) (·.held) = some [.send 0 []] ∧
    after (exec (.accept 0 []) sending) (·.held) = some [.accept 0 []] ∧
    after (exec .stop sending) (fun t => (t.held, t.stopped)) = some ([.stop], false) := by decide

/-! ## Steps -/

/-- P4: the held ACCEPT steps once the hold is lifted. -/
theorem test_retry_runs_held_request :
    after (step { opened with held := [.accept 1 [0x01]], inputs := [⟨.retry 0, calmEnv⟩] })
      (fun t => (t.fill, t.held, t.inputs)) = some (1, [], []) := by decide
/-- The hold of R130 and the cycle of moves: an answered call, a SEND that holds, an answered call again. -/
theorem test_cycle_goes_on :
    after (stepAll 3 { sending with later := .cycle [⟨.answer ⟨0, 3⟩, calmEnv⟩, ⟨.request ⟨0x1, .words 0 []⟩, calmEnv⟩] })
      (fun t => (t.w, t.frPhase, t.held)) = some (6, .sending, [.send 0 []]) := by decide
/-- V-DER-F1. -/
theorem test_step_refuses :
    after (step { opened with inputs := [⟨.request ⟨0x6, .none⟩, calmEnv⟩] }) (fun t => (t.refused, t.fault)) =
    some (true, false) := by decide
/-- A table word that decodes at the command port runs as the first instruction after reset: STOP ends the stream. -/
theorem test_first_instruction_after_reset :
    after (step (State.reset.withFetchWord 8 0b0100)) (fun t => (t.stopped, t.sink, t.inputs)) =
    some (true, [.onEndOfStream], []) := by decide
/-- The word of the UNPACK row is the last triple of the block that the first step decodes (V-DER-U13). -/
theorem test_unpack_word_after_reset :
    after (step (State.reset.withFetchWord 24 0x2A152A)) (fun t => t.sink.map (eventSlot 1023)) =
    some [(some 0xA9, some 0x16A)] := by decide +kernel

/-! ## Witnesses

One theorem per obligation with hypotheses: concrete states and operands that meet them, for each clause, at a boundary of
its range where it has one. -/

/-- An answer `Wrote(0)`. -/
def zeroAnswer : Input := { move := .answer { kind := 0, k := 0 }, env := calmEnv }

/-- V-DER-X9: `Wrote(0)` for ever, 7 of 8 bytes already written. -/
def zeroForever : State := { sending with w := 7, later := .cycle [zeroAnswer] }

/-- `oneRegister`'s layout keeps the law of R77. -/
theorem oneRegister_nodup : oneRegister.words.Nodup := by
  refine List.Nodup.map_on ?_ List.nodup_range
  intro a ha b hb h
  have h' := congrArg BitVec.toNat h
  simp only [List.mem_range, BitVec.toNat_ofNat] at ha hb h'
  omega

theorem vector_lawful : vectorParams.lawful = true := by
  simp only [Params.lawful, vectorParams, List.map_cons, List.map_nil, List.all_cons, List.all_nil, List.flatMap_cons,
    List.flatMap_nil, List.append_nil, oneRegister_nodup]
  decide +kernel

/-- A request of up to MAX_WORDS = 3 words fits. -/
theorem opened_fits {n most : Nat} (small : n ≤ 3) (h : opened.cfg.maxWords = some most) : n ≤ most := by
  have h3 : some 3 = some most := h
  cases h3
  exact small

/-- Device open with a request as the next move and an open transport. -/
def presented (r : CommandRecord) : State := { opened with inputs := [⟨.request r, calmEnv⟩] }

/-- Every j from 0 to L - w = 8. -/
theorem witness_ResetClearsRegisters : sending.frPhase = .sending ∧ sending.len - sending.w = 8 := by decide

theorem witness_EncodedFieldsAreRecovered :
    vectorParams.lawful = true ∧ opened.cfg = vectorParams ∧ regValid vectorParams 5 = true :=
  ⟨vector_lawful, rfl, by decide⟩

theorem witness_AtMost256ValidRegisters :
    vectorParams.lawful = true ∧ [5].Nodup ∧ ∀ r ∈ [5], regValid vectorParams r = true :=
  ⟨vector_lawful, by decide, by decide⟩

theorem witness_FrameLayout :
    4 < vectorParams.hdr.length ∧ [(0x1234 : Word), 0x5678][0]? = some 0x1234 ∧
    [(0x1234 : Word), 0x5678][1]? = some 0x5678 ∧ 0 < vectorParams.trl.length := by decide

/-- The hold; the closed transport; one word too many, and a failed draw; the empty frame; the largest frame and the
smallest one. -/
theorem witness_SendChecksThenStarts :
    sending.frPhase = .sending ∧
    ((State.resetWith vectorParams).frPhase = .idle ∧
      (State.resetWith vectorParams).env.transportOpen = false) ∧
    (opened.frPhase = .idle ∧ opened.env.transportOpen = true ∧
      (opened.cfg.maxWords = some 3 ∧ 3 < [(0 : Word), 0, 0, 0].length)) ∧
    { calmEnv with allocOk := false }.allocOk = false ∧
    (opened.env.allocOk = true ∧ bareParams.hdr.length + 2 * ([] : List Word).length + bareParams.trl.length = 0) ∧
    ((∀ most, opened.cfg.maxWords = some most → [(0 : Word), 0, 0].length ≤ most) ∧
      0 < bareParams.hdr.length + 2 * [(0 : Word)].length + bareParams.trl.length) :=
  ⟨by decide, by decide, by decide, by decide, by decide, fun _ => opened_fits (by decide), by decide⟩

theorem witness_SendStoresFrameOnly :
    opened.fbuf.wf = true ∧ opened.frPhase = .idle ∧
    ∃ t, exec (.send [(0x1234 : Word)].length [0x1234]) opened = .next t ∧ t.frPhase = .sending :=
  ⟨by decide, by decide, _, rfl, by decide⟩

/-- L - w = 8: 9 is too many, 8 completes, 7 does not; and no pending call. -/
theorem witness_XferAnswers :
    sending.frPhase = .sending ∧ sending.len - sending.w < 9 ∧ (8 ≤ sending.len - sending.w ∧ sending.w + 8 = sending.len) ∧
    (7 ≤ sending.len - sending.w ∧ sending.w + 7 ≠ sending.len) ∧ opened.frPhase = .idle := by decide

theorem witness_PartialWriteOffersRemainder :
    sending.offered = some [0x40, 0x4C, 0x44, 0x53, 0x7E, 0x12, 0x34, 0x7E] ∧
    7 < [(0x40 : Byte), 0x4C, 0x44, 0x53, 0x7E, 0x12, 0x34, 0x7E].length := by decide

theorem witness_ZeroWritesNeverComplete :
    sending.frPhase = .sending ∧ { sending with w := 7 }.w < sending.len := by decide

/-- V-DER-X3, and X6 with its zero counts. -/
theorem witness_PartialWritesSendWholeFrame :
    opened.fbuf.wf = true ∧ opened.frPhase = .idle ∧ opened.env.transportOpen = true ∧ opened.env.allocOk = true ∧
    (∀ most, opened.cfg.maxWords = some most → [(0x1234 : Word)].length ≤ most) ∧
    [6, 2].sum = frameLength opened.cfg 1 ∧ [6, 2].dropLast.sum < frameLength opened.cfg 1 ∧
    [0, 0, 8].sum = frameLength opened.cfg 1 ∧ [0, 0, 8].dropLast.sum < frameLength opened.cfg 1 :=
  ⟨by decide, by decide, by decide, by decide, fun _ => opened_fits (by decide), by decide, by decide, by decide,
    by decide⟩

/-- V-DER-X5: 7 of 8 bytes, then the error. -/
theorem witness_ResendFollowsFailedPrefix :
    opened.fbuf.wf = true ∧ opened.frPhase = .idle ∧ opened.env.transportOpen = true ∧ opened.env.allocOk = true ∧
    (∀ most, opened.cfg.maxWords = some most → [(0x1234 : Word)].length ≤ most ∧ [(0x0102 : Word)].length ≤ most) ∧
    [7].sum < frameLength opened.cfg 1 ∧ 0 < frameLength opened.cfg 1 :=
  ⟨by decide, by decide, by decide, by decide, fun _ h => ⟨opened_fits (by decide) h, opened_fits (by decide) h⟩,
    by decide, by decide⟩

theorem witness_NonzeroWritesEndSend :
    sending.frPhase = .sending ∧ sending.w < sending.len ∧ (∀ k ∈ List.replicate 8 1, 0 < k) ∧
    sending.len - sending.w ≤ (List.replicate 8 1).length := by decide

theorem witness_ResultChangesOnlyAtCompletion :
    (∃ t, exec .reset opened = .next t) ∧
    ∃ t, exec (.xferWrote 8) sending = .next t ∧ t.frResult ≠ sending.frResult ∧
      t.returned = some (.sendDone .ok) :=
  ⟨⟨_, rfl⟩, _, rfl, by decide, by decide⟩

theorem witness_ErrorsChangeOnlyTheResult :
    (∃ t, exec (.xferError 0) sending = .next t ∧ t.returned = some (.sendDone .transportError)) ∧
    (∃ t, exec (.send 4 [0, 0, 0, 0]) opened = .next t ∧ t.returned = some (.sendDone .allocationError)) ∧
    (∃ t, exec (.accept 0 []) opened = .next t ∧ t.returned = some (.accepted .closed)) ∧
    ∃ t, exec (.accept 0 []) { opened with stopped := true } = .next t ∧ t.returned = some (.accepted .stopped) :=
  ⟨⟨_, rfl, by decide⟩, ⟨_, rfl, by decide⟩, ⟨_, rfl, by decide⟩, _, rfl, by decide⟩

theorem witness_RequestsHoldWhileSending :
    (holds .stop = true ∧ Instr.stop.wf = true ∧ sending.frPhase = .sending) ∧ opened.frPhase = .idle ∧
    ∃ t, exec (.xferWrote 8) sending = .next t ∧ t.frPhase = .idle :=
  ⟨by decide, by decide, _, rfl, by decide⟩

/-- F + m = 3071 does not fill the block, 3072 does. -/
theorem witness_AcceptAppendsAndEmits :
    sending.frPhase = .sending ∧ (nearlyFull.frPhase = .idle ∧ { nearlyFull with stopped := true }.stopped = true) ∧
    (nearlyFull.stopped = false ∧ ([] : List Byte) = []) ∧
    ([(0x15 : Byte), 0x2A] ≠ [] ∧ nearlyFull.fill + [(0x15 : Byte), 0x2A].length < 3072) ∧
    (nearlyFull.fill ≤ 3071 ∧ 3072 ≤ nearlyFull.fill + [(0x15 : Byte), 0x2A, 0x15].length) ∧
    ({ opened with fill := 3071 }.fill ≤ 3071 ∧ 3072 ≤ { opened with fill := 3071 }.fill + [(0 : Byte)].length) := by
  decide

theorem witness_AcceptStoresWithinBlock :
    { opened with fill := 3071 }.rbuf.wf = true ∧ { opened with fill := 3071 }.frPhase = .idle ∧
    { opened with fill := 3071 }.stopped = false ∧ [(1 : Byte), 2, 3, 4, 5] ≠ [] ∧
    { opened with fill := 3071 }.fill ≤ 3071 := by decide

theorem witness_UnpackDecodesEverySlot : { opened with fill := 3072 }.fill = 3072 := by decide

theorem witness_AcceptEmitsWhatUnpackReturns :
    nearlyFull.frPhase = .idle ∧ nearlyFull.stopped = false ∧ nearlyFull.fill ≤ 3071 ∧
    3072 ≤ nearlyFull.fill + [(0x15 : Byte), 0x2A, 0x15].length := by decide

theorem witness_UnpackStopsOnPartialBlock :
    { opened with fill := 3071 }.fill ≠ 3072 ∧ { opened with fill := 3073 }.fill ≠ 3072 := by decide

/-- 3071 bytes and then one. -/
theorem witness_ChunkSplitDoesNotMatter :
    opened.rbuf.wf = true ∧ opened.frPhase = .idle ∧ opened.stopped = false ∧ opened.fill = 0 ∧
    (∀ c ∈ [List.replicate 3071 (0x2A : Byte), [0x15]], c ≠ []) ∧
    [List.replicate 3071 (0x2A : Byte), [0x15]].dropLast.flatten.length < 3072 ∧
    3072 ≤ [List.replicate 3071 (0x2A : Byte), [0x15]].flatten.length := by decide +kernel

theorem witness_DiscardClearsFillOnly : sending.frPhase = .sending ∧ nearlyFull.frPhase = .idle := by decide

theorem witness_StopEndsStreamOnce :
    sending.frPhase = .sending ∧ (nearlyFull.frPhase = .idle ∧ nearlyFull.stopped = false) ∧
    { opened with stopped := true }.stopped = true := by decide

theorem witness_OneEndOfStreamBetweenResets :
    Instr.reset ∉ [Instr.stop, .stop] ∧ (∃ t, execAll [.stop, .stop] opened = .next t) ∧
    { opened with stopped := true }.stopped = true :=
  ⟨by decide, ⟨_, rfl⟩, by decide⟩

theorem witness_UnitsDoNotWriteEachOther :
    (∃ t, exec (.xferWrote 8) sending = .next t) ∧ ∃ t, exec (.accept 1 [0xEE]) opened = .next t :=
  ⟨⟨_, rfl⟩, _, rfl⟩

theorem witness_FramerIgnoresUnpacker :
    (∃ n words, Instr.send 0 [] = .send n words) ∧ ∃ t, exec (.send 0 []) opened = .next t :=
  ⟨⟨_, _, rfl⟩, _, rfl⟩

theorem witness_SentinelIsNeverRead : ∃ t, exec (.encode 5 0x80) opened = .next t := ⟨_, rfl⟩

theorem witness_DecodeEncodeAgree :
    (Instr.send 1 [0xFFFF]).wf = true ∧ (CommandRecord.mk 0x1 (.words 1 [0xFFFF])).wf = true := by decide

theorem witness_OnlyMalformedRequestsAreRefused :
    (presented ⟨0x6, .none⟩).inputs = [{ move := .request ⟨0x6, .none⟩, env := calmEnv }] ∧
    (CommandRecord.mk 0x6 .none).wf = false ∧ (CommandRecord.mk 0x5 (.regVal 0 0)).wf = true := by decide

theorem witness_MalformedListIsRefused :
    (Instr.send 1 []).wf = false ∧ (Instr.accept 1 [0xEE, 0xEE]).wf = false := by decide

/-- Each kind of move; the last waiting request and the first place beyond them. -/
theorem witness_StepRunsDecodedInstruction :
    ((presented ⟨0x4, .none⟩).inputs = [{ move := .request ⟨0x4, .none⟩, env := calmEnv }] ∧
      decodeCommand ⟨0x4, .none⟩ = .ok .stop) ∧
    { sending with inputs := [⟨.answer ⟨0, 8⟩, calmEnv⟩] }.inputs = [{ move := .answer ⟨0, 8⟩, env := calmEnv }] ∧
    ({ opened with held := [Instr.stop], inputs := [⟨.retry 0, calmEnv⟩] }.held[0]? = some .stop ∧
      { opened with held := [Instr.stop], inputs := [⟨.retry 1, calmEnv⟩] }.held.length ≤ 1) ∧
    (opened.inputs = [] ∧ opened.later = .free 0) ∧
    (zeroForever.inputs = [] ∧ zeroForever.later = .cycle (zeroAnswer :: [])) ∧
    { opened with later := .cycle [] }.later = .cycle [] := by
  decide

theorem witness_ResetStateMeetsInvariant : vectorParams.lawful = true := vector_lawful

/-- V-DER-X1's start state with its answer to come meets the invariant. -/
theorem witness_StepKeepsInvariant :
    let s := { sending with inputs := [⟨.answer ⟨0, 8⟩, calmEnv⟩] }
    s.Inv ∧ ∃ t, step s = .next t := by
  refine ⟨⟨by decide, by decide, by decide, by decide, by decide, by decide, by decide, by decide, by decide,
    by decide, ?_, vector_lawful⟩, _, rfl⟩
  intro most h
  have h3 : some 3 = some most := h
  cases h3
  decide

/-- The same state is the witness. -/
theorem witness_StepAlwaysAnswersNext : ({ sending with inputs := [⟨.answer ⟨0, 8⟩, calmEnv⟩] } : State).Inv :=
  witness_StepKeepsInvariant.1

theorem witness_HistoriesGrowAndMarksStay :
    (∃ t, step (presented ⟨0x4, .none⟩) = .next t) ∧ { opened with fault := true }.fault = true ∧
    { opened with refused := true }.refused = true :=
  ⟨⟨_, rfl⟩, by decide, by decide⟩

theorem witness_ZeroAnswersForever :
    zeroForever.frPhase = .sending ∧ zeroForever.w < zeroForever.len ∧ zeroForever.inputs = [] ∧
    zeroForever.later = .cycle [{ move := .answer { kind := 0, k := 0 }, env := calmEnv }] := by decide

/-- With an ACCEPT before the answers and another waiting. -/
theorem witness_SendNeverEndsOnZeroAnswers :
    let s := { zeroForever with held := [.accept 0 []], inputs := [⟨.request ⟨0x2, .bytes 0 []⟩, calmEnv⟩] }
    s.frPhase = .sending ∧ s.w < s.len ∧ (∀ i ∈ s.held, holds i = true) ∧
      ∀ x, s.toCome x → idleWhileSending x.move = true := by
  refine ⟨by decide, by decide, by decide, fun x hx => ?_⟩
  rcases hx with hx | hx <;> cases List.mem_singleton.1 hx <;> decide

/-- Two states that differ in the first byte beyond F, and in `fbuf` while IDLE. -/
theorem witness_StaleBufferBytesAreUnobservable :
    let s := { presented ⟨0x2, .bytes 1 [0xEE]⟩ with fill := 7, rbuf := [(6, 1), (7, 1)] }
    let t := { presented ⟨0x2, .bytes 1 [0xEE]⟩ with fill := 7, rbuf := [(6, 1), (7, 2)], fbuf := [(0, 3)] }
    sameObservable s t ∧ s.rbuf.wf = true ∧ t.rbuf.wf = true ∧ s.fbuf.wf = true ∧ t.fbuf.wf = true ∧
      ∃ s', step s = .next s' :=
  ⟨⟨rfl, by decide, by decide⟩, by decide, by decide, by decide, by decide, _, rfl⟩

end Sys2Proof.Tests
end

section
/-! What one step does for each kind of move, listed or still to be listed (00_scope.md R5; log 3). -/

namespace Sys2Proof.Machine

variable {s : State} {x : Input} {rest : List Input}

/-- A request of the grammar is fetched as its instruction. -/
theorem fetchMove_request {r : CommandRecord} {i : Instr} (hdecode : decodeCommand r = .ok i) (s : State) :
    fetchMove (.request r) s = .run i s := by
  simp only [fetchMove, hdecode]

theorem fetchMove_answer (r : AnswerRecord) (s : State) : fetchMove (.answer r) s = .run (decodeAnswer r) s := rfl

/-- A waiting request is fetched and waits no longer. -/
theorem fetchMove_retry_held {place : Nat} {i : Instr} (hheld : s.held[place]? = some i) :
    fetchMove (.retry place) s = .run i (takeHeld place s) := by
  simp only [fetchMove, hheld]

/-- Beyond the waiting requests there is nothing to take up. -/
theorem fetchMove_retry_beyond {place : Nat} (hplace : s.held.length ≤ place) :
    fetchMove (.retry place) s = .quiet s := by
  simp only [fetchMove, List.getElem?_eq_none hplace]

/-- The instruction that a listed move asks for runs. -/
theorem step_of_fetchMove_run {i : Instr} {t : State} (hin : s.inputs = x :: rest)
    (hmove : fetchMove x.move (takeMove x rest s) = .run i t) : step s = exec i t := by
  simp only [step, fetch_of_inputs hin, hmove]

/-- A listed move that asks for no instruction ends the step. -/
theorem step_of_fetchMove_quiet {t : State} (hin : s.inputs = x :: rest)
    (hmove : fetchMove x.move (takeMove x rest s) = .quiet t) : step s = .next t := by
  simp only [step, fetch_of_inputs hin, hmove]

theorem refill_of_cycle {moves : List Input} (hin : s.inputs = []) (hlater : s.later = .cycle moves) :
    refill s = { s with inputs := moves } := by
  simp only [refill, hin, hlater]

theorem refill_of_free {n : Nat} (hin : s.inputs = []) (hlater : s.later = .free n) :
    refill s = { s with inputs := [Config.freeInput n], later := .free (n + 1) } := by
  simp only [refill, hin, hlater]

/-- Where no move is to come, the block rests. -/
theorem step_of_refill_nil (h : (refill s).inputs = []) : step s = .next s := by
  simp only [step, fetch, h]

/-- Settles O35: each listed kind of move by what `fetchMove` makes of it; a list still to be filled by `step_refill`. -/
theorem stepRunsDecodedInstruction : Obligations.StepRunsDecodedInstruction := by
  intro s e rest
  refine ⟨?request, ?answer, ?retryHeld, ?retryBeyond, ?cycle, ?free, ?noMove⟩
  case request => exact fun r i hin hdecode => step_of_fetchMove_run hin (fetchMove_request hdecode _)
  case answer => exact fun r hin => step_of_fetchMove_run hin (fetchMove_answer r _)
  case retryHeld => exact fun place i hin hheld => step_of_fetchMove_run hin (fetchMove_retry_held hheld)
  case retryBeyond => exact fun place hin hplace => step_of_fetchMove_quiet hin (fetchMove_retry_beyond hplace)
  case cycle =>
    intro x moves hin hlater
    rw [← refill_of_cycle hin hlater, step_refill]
  case free =>
    intro n hin hlater
    rw [← refill_of_free hin hlater, step_refill]
  case noMove =>
    intro hin hlater
    exact step_of_refill_nil (by rw [refill_of_cycle hin hlater])

end Sys2Proof.Machine
end

section
/-! The state at device open and the numeric codes (10_state.md R26, R36, R37, R91, R126). -/

namespace Sys2Proof.Machine

/-- Settles O1: every clause is the start value that `State.resetWith` writes. -/
theorem deviceOpenState : Obligations.DeviceOpenState :=
  ⟨rfl, fun _ => ⟨rfl, rfl, rfl, rfl, rfl, rfl, rfl, rfl, rfl, rfl⟩⟩

/-- Settles O41: each code by evaluation. -/
theorem statusCodes : Obligations.StatusCodes := by
  unfold Obligations.StatusCodes
  decide

/-- Idle and empty, so every bound holds; the layout law is the one clause about the parameters. -/
theorem inv_resetWith {p : Params} (lawful : p.lawful = true) : (State.resetWith p).Inv where
  offset := Nat.le_refl 0
  pending := nofun
  frameLong := .inl rfl
  fillBound := Nat.zero_le _
  stoppedEmpty := nofun
  streamEnded := nofun
  events := nofun
  waiting := nofun
  rawBuffer := ⟨rfl, rfl⟩
  frameBuffer := rfl
  capacity := fun _ _ => ⟨Nat.zero_le _, rfl⟩
  layoutLaw := lawful

/-- Settles O36: the device's own parameters are checked, hence lawful. -/
theorem resetStateMeetsInvariant : Obligations.ResetStateMeetsInvariant :=
  ⟨inv_resetWith (checked_lawful _), fun _ => inv_resetWith⟩

end Sys2Proof.Machine
end

section
/-! What the fetch leaves for an instruction to run in. -/

namespace Sys2Proof.Machine

/-- The state an instruction runs in has lost its move and, if it waited, its place among the waiting. -/
theorem fetch_run_state {s u : State} {i : Instr} (h : fetch s = .run i u) :
    ∃ x rest, u = takeMove x rest (refill s) ∨ ∃ place, u = takeHeld place (takeMove x rest (refill s)) := by
  obtain ⟨x, rest, -, ⟨_, -, -, hu⟩ | ⟨_, -, -, hu⟩ | ⟨place, -, -, hu⟩⟩ := fetch_run h
  · exact ⟨x, rest, .inl hu⟩
  · exact ⟨x, rest, .inl hu⟩
  · exact ⟨x, rest, .inr ⟨place, hu⟩⟩

end Sys2Proof.Machine
end

section
/-! The histories, the marks and the parameters along a step (10_state.md R27, R31, R33; 00_scope.md R6). -/

namespace Sys2Proof.Machine

/-- Both histories of `t` continue those of `s`, every mark of `s` is still set, and the parameters are the same. -/
def recordKept (s t : State) : Prop :=
  s.wire <+: t.wire ∧ s.sink <+: t.sink ∧ (s.fault = true → t.fault = true) ∧
    (s.refused = true → t.refused = true) ∧ t.cfg = s.cfg

theorem recordKept_refl (s : State) : recordKept s s :=
  ⟨List.prefix_rfl, List.prefix_rfl, id, id, rfl⟩

theorem recordKept_trans {s t u : State} (hst : recordKept s t) (htu : recordKept t u) : recordKept s u := by
  obtain ⟨wire, sink, fault, refused, cfg⟩ := hst
  obtain ⟨wire', sink', fault', refused', cfg'⟩ := htu
  exact ⟨wire.trans wire', sink.trans sink', fault' ∘ fault, refused' ∘ refused, cfg'.trans cfg⟩

theorem recordKept_takeMove_refill (x : Input) (rest : List Input) (s : State) :
    recordKept s (takeMove x rest (refill s)) := by
  simp [recordKept]

theorem recordKept_takeHeld (place : Nat) (s : State) : recordKept s (takeHeld place s) := recordKept_refl s

theorem recordKept_recordRefusal (s : State) : recordKept s (recordRefusal s) :=
  ⟨List.prefix_rfl, List.prefix_rfl, id, fun _ => rfl, rfl⟩

variable {i : Instr} {s t : State}

/-- Only an accepted write and an abandoned one write the wire, and they append. -/
theorem effect_wire (h : Effect i s t) : s.wire <+: t.wire := by
  cases h with
  | wroteLast | wrotePart | resetSending => exact List.prefix_append ..
  | _ => exact List.prefix_rfl

/-- Only a finished block and the first STOP write the sink, and they append. -/
theorem effect_sink (h : Effect i s t) : s.sink <+: t.sink := by
  cases h with
  | acceptFull | stopFirst => exact List.prefix_append ..
  | _ => exact List.prefix_rfl

theorem effect_fault (h : Effect i s t) : s.fault = true → t.fault = true := by
  cases h with
  | overreport => exact fun _ => rfl
  | _ => exact id

theorem effect_refused (h : Effect i s t) : s.refused = true → t.refused = true := by
  cases h with
  | refusal => exact fun _ => rfl
  | _ => exact id

theorem effect_cfg (h : Effect i s t) : t.cfg = s.cfg := by
  cases h <;> rfl

theorem effect_recordKept (h : Effect i s t) : recordKept s t :=
  ⟨effect_wire h, effect_sink h, effect_fault h, effect_refused h, effect_cfg h⟩

theorem fetch_run_recordKept (h : fetch s = .run i t) : recordKept s t := by
  obtain ⟨x, rest, rfl | ⟨place, rfl⟩⟩ := fetch_run_state h
  · exact recordKept_takeMove_refill x rest s
  · exact recordKept_trans (recordKept_takeMove_refill x rest s) (recordKept_takeHeld place _)

theorem fetch_quiet_recordKept (h : fetch s = .quiet t) : recordKept s t := by
  obtain rfl | ⟨x, rest, -, rfl | rfl⟩ := fetch_quiet h
  · exact recordKept_refl _
  · exact recordKept_takeMove_refill x rest s
  · exact recordKept_trans (recordKept_takeMove_refill x rest s) (recordKept_recordRefusal _)

/-- Settles O39: the fetch keeps the record and so does every effect. -/
theorem historiesGrowAndMarksStay : Obligations.HistoriesGrowAndMarksStay := by
  intro s t h
  obtain ⟨i, u, hfetch, heffect⟩ | hquiet := step_cases h
  · exact recordKept_trans (fetch_run_recordKept hfetch) (effect_recordKept heffect)
  · exact fetch_quiet_recordKept hquiet

end Sys2Proof.Machine
end

section
/-! The invariant is kept (10_state.md R36; R24, R28): one rule for each named operation on the state, then one case for
each effect. Where an operation breaks a clause that the next one restores (a write that completes a SEND, a full block,
the stop latch), the two are exchanged first, so that every state in between meets the invariant. -/

namespace Sys2Proof.Machine

/-! ## The exchanges -/

theorem completeSend_advance (r : FrResult) (k : Nat) (s : State) :
    completeSend r (advance k s) = advance k (completeSend r s) := rfl

theorem finishBlock_eq (s : State) :
    finishBlock s = returning (.accepted .blockDone)
      (emit (.onSamples (unpackLogic s.rbuf) (unpackAnalog s.rbuf)) (clearFill s)) := rfl

theorem endStream_eq (s : State) :
    emit .onEndOfStream (clearFill (latchStop s)) = latchStop (emit .onEndOfStream (clearFill s)) := rfl

/-! ## A rule for each operation -/

section operations
variable {s : State} (h : s.Inv)
include h

theorem inv_returning (r : Returned) : (returning r s).Inv := { h with }

theorem inv_returningNothing : (returningNothing s).Inv := { h with }

theorem inv_recordRefusal : (recordRefusal s).Inv := { h with }

theorem inv_recordFault : (recordFault s).Inv := { h with }

theorem inv_abandonWrite : (abandonWrite s).Inv := { h with }

theorem inv_takeMove (x : Input) (rest : List Input) : (takeMove x rest s).Inv := { h with }

theorem inv_refill : (refill s).Inv := by
  unfold refill
  split
  · exact h
  · exact { h with }
  · exact { h with }

theorem inv_takeHeld (place : Nat) : (takeHeld place s).Inv :=
  { h with waiting := fun i hi => h.waiting i (List.mem_of_mem_eraseIdx hi) }

theorem inv_hold {i : Instr} (hi : holds i = true) (hw : i.wf = true) : (hold i s).Inv :=
  { h with
    waiting := fun j hj => by
      rcases List.mem_append.1 hj with hbefore | hnew
      · exact h.waiting j hbefore
      · cases List.mem_singleton.1 hnew
        exact ⟨hi, hw⟩ }

/-! The framer. -/

theorem inv_completeSend (r : FrResult) : (completeSend r s).Inv :=
  { h with pending := nofun, frameLong := .inl rfl }

/-- The frame of a request that fits stays within the capacity (R24, R56). -/
theorem inv_loadFrame {ws : List Word} (hidle : s.frPhase = .idle) (hfits : fits s.cfg ws.length = true) :
    (loadFrame ws.length ws s).Inv :=
  { h with
    offset := Nat.zero_le _
    pending := fun hsending => nomatch hidle.symm.trans hsending
    frameLong := .inl hidle
    frameBuffer := Memory.wf_writeBytes _ h.frameBuffer _ _
    capacity := fun most hmost => by
      have hlen : frameLength s.cfg ws.length ≤ frameLength s.cfg most := by
        have := (fits_iff s.cfg ws.length).1 hfits most hmost
        simp only [frameLength]
        omega
      obtain ⟨-, hwithin⟩ := h.capacity most hmost
      exact ⟨hlen, Memory.within_writeBytes _ _ _ _ hwithin (by simpa using hlen)⟩ }

theorem inv_startSending (hoffer : s.w < s.len) (hlong : s.cfg.hdr.length + s.cfg.trl.length ≤ s.len) :
    (startSending s).Inv :=
  { h with pending := fun _ => hoffer, frameLong := .inr hlong }

theorem inv_advance {k : Nat} (hk : s.w + k ≤ s.len) (hleft : s.frPhase = .sending → s.w + k ≠ s.len) :
    (advance k s).Inv :=
  { h with offset := hk, pending := fun hsending => Nat.lt_of_le_of_ne hk (hleft hsending) }

theorem inv_clearRegisters : (clearRegisters s).Inv :=
  { h with
    offset := Nat.le_refl 0
    pending := nofun
    frameLong := .inl rfl
    fillBound := Nat.zero_le _
    stoppedEmpty := nofun
    streamEnded := nofun
    capacity := fun most hmost => ⟨Nat.zero_le _, (h.capacity most hmost).2⟩ }

/-! The unpacker. -/

theorem inv_clearFill : (clearFill s).Inv :=
  { h with fillBound := Nat.zero_le _, stoppedEmpty := fun _ => rfl }

/-- An event of the right size; once the stream has ended it ends it again. -/
theorem inv_emit {e : SinkEvent} (hwf : e.wf = true) (hend : s.stopped = true → e = .onEndOfStream) :
    (emit e s).Inv :=
  { h with
    streamEnded := fun hstopped => by simp [hend hstopped]
    events := fun e' he' => by
      rcases List.mem_append.1 he' with hbefore | hnew
      · exact h.events e' hbefore
      · cases List.mem_singleton.1 hnew
        exact hwf }

theorem inv_latchStop (hempty : s.fill = 0) (hended : s.sink.getLast? = some .onEndOfStream) :
    (latchStop s).Inv :=
  { h with stoppedEmpty := fun _ => hempty, streamEnded := fun _ => hended }

/-- Bytes appended up to the end of the block stay within its capacity (R28, R92). -/
theorem appendRaw_rawBuffer {bs : List Byte} (hroom : s.fill + bs.length ≤ 3072) :
    (appendRaw bs s).rbuf.wf = true ∧ (appendRaw bs s).rbuf.within Config.blockBytes = true := by
  obtain ⟨hwf, hwithin⟩ := h.rawBuffer
  exact ⟨Memory.wf_writeBytes _ hwf _ _, Memory.within_writeBytes _ _ _ _ hwithin hroom⟩

theorem inv_appendRaw {bs : List Byte} (hrunning : s.stopped = false) (hroom : s.fill + bs.length ≤ 3071) :
    (appendRaw bs s).Inv :=
  { h with
    fillBound := hroom
    stoppedEmpty := fun hstopped => nomatch hrunning.symm.trans hstopped
    rawBuffer := appendRaw_rawBuffer h (Nat.le_succ_of_le hroom) }

/-- A full block is emitted and the fill count returns to 0 (R91, R97, R98). -/
theorem inv_finishBlock_appendRaw {bs : List Byte} (hrunning : s.stopped = false)
    (hfull : s.fill + bs.length = 3072) : (finishBlock (appendRaw bs s)).Inv := by
  have hcleared : (clearFill (appendRaw bs s)).Inv :=
    { inv_clearFill h with rawBuffer := appendRaw_rawBuffer h (Nat.le_of_eq hfull) }
  rw [finishBlock_eq]
  refine inv_returning (inv_emit hcleared ?size ?running) _
  case size => simp [SinkEvent.wf, samples_eq]
  case running => simp [hrunning]

/-- The first STOP (R100). -/
theorem inv_endStream : (emit .onEndOfStream (clearFill (latchStop s))).Inv := by
  rw [endStream_eq]
  exact inv_latchStop (inv_emit (inv_clearFill h) rfl (fun _ => rfl)) rfl (by simp)

end operations

/-! ## The step -/

variable {i : Instr} {s t : State}

/-- What an ACCEPT takes never reaches beyond the block (R92), so a block it does not fill has room left. -/
theorem fill_add_taken_le {bs : List Byte} (hfill : s.fill ≤ 3071)
    (hpart : s.fill + (bs.take (taken bs.length s)).length ≠ 3072) :
    s.fill + (bs.take (taken bs.length s)).length ≤ 3071 := by
  rw [List.length_take, taken_eq] at hpart ⊢
  omega

theorem effect_inv (heffect : Effect i s t) (h : s.Inv) : t.Inv := by
  cases heffect with
  | refusal => exact inv_recordRefusal h
  | hold hi hw => exact inv_hold h hi hw
  | sendClosed | sendNoRoom | writeError => exact inv_completeSend h _
  | sendEmpty hidle _ hfits => exact inv_completeSend (inv_loadFrame h hidle hfits) _
  | sendStart hidle _ hfits _ hlong =>
    refine inv_startSending (inv_loadFrame h hidle hfits) hlong ?_
    simp only [loadFrame_cfg, loadFrame_len, frameLength]
    omega
  | noCall => exact inv_returningNothing h
  | overreport => exact inv_recordFault h
  | wroteLast _ _ hw =>
    rw [completeSend_advance]
    exact inv_advance (inv_completeSend h _) (Nat.le_of_eq hw) nofun
  | wrotePart _ hk hw =>
    have := h.offset
    exact inv_returningNothing (inv_advance h (by omega) (fun _ => hw))
  | encode | acceptStopped | acceptClosed | unpack => exact inv_returning h _
  | acceptPart _ hrunning _ hpart =>
    exact inv_returning (inv_appendRaw h hrunning (fill_add_taken_le h.fillBound hpart)) _
  | acceptFull _ hrunning _ hfull => exact inv_finishBlock_appendRaw h hrunning hfull
  | discard => exact inv_returningNothing (inv_clearFill h)
  | stopFirst => exact inv_returningNothing (inv_endStream h)
  | stopAgain => exact inv_returningNothing h
  | resetIdle => exact inv_clearRegisters h
  | resetSending => exact inv_clearRegisters (inv_abandonWrite h)

theorem fetch_run_inv (hfetch : fetch s = .run i t) (h : s.Inv) : t.Inv := by
  obtain ⟨x, rest, rfl | ⟨place, rfl⟩⟩ := fetch_run_state hfetch
  · exact inv_takeMove (inv_refill h) x rest
  · exact inv_takeHeld (inv_takeMove (inv_refill h) x rest) place

theorem fetch_quiet_inv (hfetch : fetch s = .quiet t) (h : s.Inv) : t.Inv := by
  obtain rfl | ⟨x, rest, -, rfl | rfl⟩ := fetch_quiet hfetch
  · exact h
  · exact inv_takeMove (inv_refill h) x rest
  · exact inv_recordRefusal (inv_takeMove (inv_refill h) x rest)

/-- Settles O37: the fetch keeps the invariant and so does every effect. -/
theorem stepKeepsInvariant : Obligations.StepKeepsInvariant := by
  intro s t h hstep
  obtain ⟨i, u, hfetch, heffect⟩ | hquiet := step_cases hstep
  · exact effect_inv heffect (fetch_run_inv hfetch h)
  · exact fetch_quiet_inv hquiet h

end Sys2Proof.Machine
end

section
/-! The pending write call: what a started SEND stores and offers, and what a partial write leaves of the offer
(10_state.md R45; 40_framer.md R78 to R80, R84). -/

namespace Sys2Proof.Machine

variable {i : Instr} {s t : State}

/-- A write call is pending exactly while SENDING, and it offers the whole remainder (R45, R79). -/
theorem offered_eq_some_iff {bytes : List Byte} :
    s.offered = some bytes ↔ s.frPhase = .sending ∧ s.fbuf.readBytes s.w (s.len - s.w) = bytes := by
  simp [State.offered]

/-- What `loadFrame` stores from offset 0 on is its frame (R78). -/
theorem readBytes_loadFrame (hwf : s.fbuf.wf = true) (words : List Word) :
    (loadFrame words.length words s).fbuf.readBytes 0 (frameLength s.cfg words.length) = frame s.cfg words := by
  rw [loadFrame_fbuf, ← frame_length, Memory.readBytes_writeBytes _ hwf]

/-- `loadFrame` writes nothing at or beyond the end of its frame. -/
theorem read_loadFrame_beyond (hwf : s.fbuf.wf = true) (words : List Word) {a : Nat}
    (ha : ¬ a < (frame s.cfg words).length) : (loadFrame words.length words s).fbuf.read a = s.fbuf.read a := by
  rw [loadFrame_fbuf, Memory.read_writeBytes _ hwf, if_neg (by omega)]

/-- Only a SEND leads from IDLE to SENDING: other effects keep the phase or end IDLE. -/
theorem effect_starts_sending (h : Effect i s t) (hidle : s.frPhase = .idle) (hsending : t.frPhase = .sending) :
    ∃ words, i = .send words.length words ∧ t = startSending (loadFrame words.length words s) := by
  cases h with
  | sendStart => exact ⟨_, rfl, rfl⟩
  | sendClosed | sendNoRoom | sendEmpty | wroteLast | writeError | resetIdle | resetSending => exact nomatch hsending
  | _ => exact nomatch hidle.symm.trans hsending

/-- Settles O8: the SEND that started loaded its frame and made the first write call, and neither operation writes
anything else. -/
theorem sendStoresFrameOnly : Obligations.SendStoresFrameOnly := by
  intro words s t hwf hidle hexec hsending
  obtain ⟨ws, hi, rfl⟩ := effect_starts_sending (exec_effect hexec) hidle hsending
  obtain ⟨-, rfl⟩ := Instr.send.inj hi
  have hstored := readBytes_loadFrame hwf words
  exact ⟨hstored, offered_eq_some_iff.2 ⟨rfl, hstored⟩, fun _ => read_loadFrame_beyond hwf words, rfl, rfl,
    sameUnpacker_refl s, sameMarks_refl s, sameEnvironment_refl s⟩

/-- Settles O10: fewer bytes than offered are a partial write, which moves the offset and keeps the buffer. -/
theorem partialWriteOffersRemainder : Obligations.PartialWriteOffersRemainder := by
  intro k s bytes hoffered hk
  obtain ⟨hsending, rfl⟩ := offered_eq_some_iff.1 hoffered
  rw [Memory.readBytes_length] at hk
  refine ⟨_, exec_wrote_part hsending (Nat.le_of_lt hk) (by omega), ?wire, ?offer, rfl, fun _ => rfl,
    sameUnpacker_refl s, sameMarks_refl s, sameEnvironment_refl s⟩
  case wire => rw [Memory.readBytes_take _ _ _ _ (Nat.le_of_lt hk)]; rfl
  case offer =>
    rw [Memory.readBytes_drop _ _ _ _ (Nat.le_of_lt hk), Nat.sub_sub]
    exact offered_eq_some_iff.2 ⟨hsending, rfl⟩

end Sys2Proof.Machine
end

section
/-! The runs of several operations: a relation that every effect keeps holds along the run. -/

namespace Sys2Proof.Machine

/-- A run that answers a next state does so from its first operation's next state on. -/
theorem execAll_cons_next {i : Instr} {ops : List Instr} {s t : State} (h : execAll (i :: ops) s = .next t) :
    ∃ u, exec i s = .next u ∧ execAll ops u = .next t := by
  unfold execAll at h
  split at h
  · exact ⟨_, ‹_›, h⟩
  · cases h
  · cases h

/-- A reflexive and transitive relation that the effects of the listed operations keep holds along their run. -/
theorem execAll_related {R : State → State → Prop} (hrefl : ∀ s, R s s) (htrans : ∀ {s t u}, R s t → R t u → R s u)
    {ops : List Instr} (heffect : ∀ i ∈ ops, ∀ {s t}, Effect i s t → R s t) {s t : State}
    (h : execAll ops s = .next t) : R s t := by
  induction ops generalizing s with
  | nil => cases h; exact hrefl _
  | cons i ops ih =>
    obtain ⟨u, hfirst, hrest⟩ := execAll_cons_next h
    have hsu : R s u := heffect i (List.mem_cons_self ..) (exec_effect hfirst)
    exact htrans hsu (ih (fun j hj => heffect j (List.mem_cons_of_mem i hj)) hrest)

end Sys2Proof.Machine
end

section
/-! The end of stream between two RESETs (10_state.md R54; 41_unpacker.md R101). -/

namespace Sys2Proof.Machine

variable {i : Instr} {s t : State}

/-- The ends of stream emitted, and the one that a running unpacker may still emit. -/
def endsAllowed (s : State) : Nat :=
  s.sink.count .onEndOfStream + if s.stopped then 0 else 1

/-- No further end of stream is allowed in `t`, and a stream that had ended in `s` stays ended with nothing emitted. -/
def streamKept (s t : State) : Prop :=
  endsAllowed t ≤ endsAllowed s ∧ (s.stopped = true → t.sink = s.sink ∧ t.stopped = true)

theorem streamKept_refl (s : State) : streamKept s s := ⟨Nat.le_refl _, fun h => ⟨rfl, h⟩⟩

theorem streamKept_trans {u : State} (hst : streamKept s t) (htu : streamKept t u) : streamKept s u := by
  obtain ⟨allowed, ended⟩ := hst
  obtain ⟨allowed', ended'⟩ := htu
  refine ⟨allowed'.trans allowed, fun hs => ?_⟩
  obtain ⟨sink, stopped⟩ := ended hs
  obtain ⟨sink', stopped'⟩ := ended' stopped
  exact ⟨sink'.trans sink, stopped'⟩

/-- A running unpacker that emits a block, or that ends its stream for good, allows no further end. -/
theorem streamKept_of_running (hs : s.stopped = false)
    (h : t.stopped = false ∧ (∃ logic analog, t.sink = s.sink ++ [.onSamples logic analog]) ∨
      t.stopped = true ∧ t.sink = s.sink ++ [.onEndOfStream]) : streamKept s t := by
  refine ⟨?_, by simp [hs]⟩
  obtain ⟨ht, logic, analog, hsink⟩ | ⟨ht, hsink⟩ := h <;> simp [endsAllowed, hs, ht, hsink]

/-- Only a RESET lifts the stop latch: every other effect emits nothing and keeps the latch, or it is a full block or
the first STOP of a running unpacker. -/
theorem effect_streamKept (h : Effect i s t) (hi : i ≠ .reset) : streamKept s t := by
  cases h with
  | acceptFull _ hs => exact streamKept_of_running hs (.inl ⟨hs, _, _, rfl⟩)
  | stopFirst _ hs => exact streamKept_of_running hs (.inr ⟨rfl, rfl⟩)
  | resetIdle | resetSending => exact absurd rfl hi
  | _ => exact streamKept_refl s

/-- Settles O27: every effect but RESET's keeps the stream, so the whole run does, and at the start at most one end of
stream is allowed beyond those emitted. -/
theorem oneEndOfStreamBetweenResets : Obligations.OneEndOfStreamBetweenResets := by
  intro ops s t hreset hrun
  obtain ⟨hallowed, hended⟩ : streamKept s t :=
    execAll_related streamKept_refl streamKept_trans
      (fun i hi _ _ heffect => effect_streamKept heffect (ne_of_mem_of_not_mem hi hreset)) hrun
  refine ⟨?_, hended⟩
  calc t.sink.count .onEndOfStream ≤ endsAllowed t := Nat.le_add_right ..
    _ ≤ endsAllowed s := hallowed
    _ ≤ s.sink.count .onEndOfStream + 1 := Nat.add_le_add_left (by split <;> decide) _

end Sys2Proof.Machine
end

section
/-! Records: the fields of a triple as slices of its bytes (30_encoding.md R63 to R67), and the requests of the grammar as
those that decode (R68 to R70, R73). -/

namespace Sys2Proof

open BitVec (extractLsb'_append_eq_left extractLsb'_append_eq_right extractLsb'_append_eq_of_add_le
  extractLsb'_append_extractLsb'_eq_extractLsb' extractLsb'_extractLsb'_of_le extractLsb'_eq_self getElem_append
  getLsbD_append)

/-! ## The fields of a triple -/

/-- Clearing bits 7:6 of a byte, by its slices. -/
theorem and_lowSix_eq (b : Byte) : b &&& 0x3F = 0#2 ++ b.extractLsb' 0 6 := by
  ext j hj
  rw [getElem_append]
  interval_cases j <;> simp

/-- The ignored bits are outside every slice of bits 5:0. -/
theorem extractLsb'_and_lowSix (b : Byte) {start len : Nat} (h : start + len ≤ 6) :
    (b &&& 0x3F).extractLsb' start len = b.extractLsb' start len := by
  rw [and_lowSix_eq, extractLsb'_append_eq_of_add_le h, extractLsb'_extractLsb'_of_le h]

theorem tripleAnalog_eq (b0 b1 : Byte) : tripleAnalog b0 b1 = b1.extractLsb' 0 4 ++ b0.extractLsb' 0 6 := by
  ext j hj
  rw [getElem_append]
  interval_cases j <;> simp [tripleAnalog]

theorem tripleLogic_eq (b1 b2 : Byte) : tripleLogic b1 b2 = b2.extractLsb' 0 6 ++ b1.extractLsb' 4 2 := by
  ext j hj
  rw [getElem_append]
  interval_cases j <;> simp [tripleLogic]

/-- The table of R63, read from the bytes. -/
theorem decodeTriple_eq (b0 b1 b2 : Byte) :
    decodeTriple b0 b1 b2 =
      { analog := b1.extractLsb' 0 4 ++ b0.extractLsb' 0 6, logic := b2.extractLsb' 0 6 ++ b1.extractLsb' 4 2 } := by
  rw [decodeTriple, tripleAnalog_eq, tripleLogic_eq]

/-- The table of R63, read from the fields. -/
theorem encodeTriple_eq (x : Sample) :
    encodeTriple x =
      (0#2 ++ x.analog.extractLsb' 0 6, 0#2 ++ (x.logic.extractLsb' 0 2 ++ x.analog.extractLsb' 6 4),
        0#2 ++ x.logic.extractLsb' 2 6) := by
  unfold encodeTriple
  congr 2
  · ext j hj
    rw [getElem_append]
    interval_cases j <;> simp
  · ext j hj
    rw [getElem_append]
    split
    · rw [getElem_append]
      interval_cases j <;> simp
    · interval_cases j <;> simp
  · ext j hj
    rw [getElem_append]
    interval_cases j <;> simp

/-- Each field is read back from the two slices it was written to. -/
theorem decodeTriple_encodeTriple (x : Sample) :
    decodeTriple (encodeTriple x).1 (encodeTriple x).2.1 (encodeTriple x).2.2 = x := by
  have analogHigh : (0#2 ++ (x.logic.extractLsb' 0 2 ++ x.analog.extractLsb' 6 4)).extractLsb' 0 4 =
      x.analog.extractLsb' 6 4 := by
    rw [extractLsb'_append_eq_of_add_le (by decide), extractLsb'_append_eq_right]
  have logicLow : (0#2 ++ (x.logic.extractLsb' 0 2 ++ x.analog.extractLsb' 6 4)).extractLsb' 4 2 =
      x.logic.extractLsb' 0 2 := by
    rw [extractLsb'_append_eq_of_add_le (by decide), extractLsb'_append_eq_left]
  simp only [encodeTriple_eq, decodeTriple_eq]
  rw [analogHigh, logicLow, extractLsb'_append_eq_right, extractLsb'_append_eq_right,
    extractLsb'_append_extractLsb'_eq_extractLsb' (start₁ := 0) (len₁ := 6) rfl,
    extractLsb'_append_extractLsb'_eq_extractLsb' (start₁ := 0) (len₁ := 2) rfl,
    extractLsb'_eq_self, extractLsb'_eq_self]

/-- Each byte is written back from its slices, its ignored bits as zeros. -/
theorem encodeTriple_decodeTriple (b0 b1 b2 : Byte) :
    encodeTriple (decodeTriple b0 b1 b2) = (b0 &&& 0x3F, b1 &&& 0x3F, b2 &&& 0x3F) := by
  simp only [encodeTriple_eq, decodeTriple_eq, and_lowSix_eq, extractLsb'_append_eq_left, extractLsb'_append_eq_right]
  rw [extractLsb'_append_extractLsb'_eq_extractLsb' (start₁ := 0) (len₁ := 4) rfl]

/-- Settles O20: each field is its two slices, the low one first, and no slice reads an ignored bit. -/
theorem tripleBitMap : Obligations.TripleBitMap := by
  intro b0 b1 b2
  rw [decodeTriple_eq]
  refine ⟨?analogLow, ?analogHigh, ?logicLow, ?logicHigh, ?ignored⟩
  case analogLow =>
    intro j hj
    rw [getLsbD_append, if_pos hj]
    simp [hj]
  case analogHigh =>
    intro j hj
    rw [getLsbD_append, if_neg (by omega)]
    simp [hj]
  case logicLow =>
    intro j hj
    rw [getLsbD_append, if_pos hj]
    simp [hj]
  case logicHigh =>
    intro j hj
    rw [getLsbD_append, if_neg (by omega)]
    simp [hj]
  case ignored =>
    rw [decodeTriple_eq, extractLsb'_and_lowSix b0 (by decide), extractLsb'_and_lowSix b1 (by decide),
      extractLsb'_and_lowSix b1 (by decide), extractLsb'_and_lowSix b2 (by decide)]

/-! ## Requests and answers -/

theorem encode_wf {i : Instr} (h : i.wf = true) : (encode i).wf = true := by
  cases i with
  | send n words => exact Laws.EncodeWf.send n words h
  | accept m bytes => exact Laws.EncodeWf.accept m bytes h
  | _ => rfl

theorem decode_encode {i : Instr} (h : i.wf = true) : decode (encode i) = .ok i := by
  cases i with
  | send n words => exact if_pos (eq_of_beq h)
  | accept m bytes => exact if_pos (eq_of_beq h)
  | _ => rfl

/-- Every request of the grammar decodes (R69). -/
theorem decodeCommand_of_wf {r : CommandRecord} (h : r.wf = true) : ∃ i, decodeCommand r = .ok i := by
  obtain ⟨cmd, operands⟩ := r
  obtain ⟨hlist, hcmd⟩ := Bool.and_eq_true_iff.1 h
  cases operands with
  | none =>
    simp only [Bool.or_eq_true, beq_iff_eq] at hcmd
    obtain (rfl | rfl) | rfl := hcmd
    · exact ⟨.reset, rfl⟩
    · exact ⟨.discard, rfl⟩
    · exact ⟨.stop, rfl⟩
  | words n ws =>
    obtain rfl := eq_of_beq hcmd
    exact ⟨.send n ws, if_pos (eq_of_beq hlist)⟩
  | bytes m bs =>
    obtain rfl := eq_of_beq hcmd
    exact ⟨.accept m bs, if_pos (eq_of_beq hlist)⟩
  | regVal reg val =>
    obtain rfl := eq_of_beq hcmd
    exact ⟨.encode reg val, rfl⟩

/-- What decodes encodes to itself, so it is of the grammar. -/
theorem wf_of_decodeCommand {r : CommandRecord} {i : Instr} (h : decodeCommand r = .ok i) : r.wf = true := by
  obtain ⟨hwf, -, hencode⟩ := decodeCommand_ok h
  exact (congrArg Record.wf hencode).symm.trans (encode_wf hwf)

/-- Every request outside the grammar is refused (R70). -/
theorem decodeCommand_of_not_wf {r : CommandRecord} (h : r.wf = false) : ∃ e, decodeCommand r = .error e := by
  cases hdecode : decodeCommand r with
  | error e => exact ⟨e, rfl⟩
  | ok i => exact absurd (wf_of_decodeCommand hdecode) (Bool.eq_false_iff.1 h)

theorem encode_decodeAnswer (r : AnswerRecord) : encode (decodeAnswer r) = .answer r := by
  obtain ⟨kind, k⟩ := r
  obtain rfl | rfl := BitVec.eq_zero_or_eq_one kind
  · rfl
  · rfl

/-- Settles O31: instructions, answers and triples by their own lemmas; a request of the grammar decodes, and what it
decodes to encodes to it. -/
theorem decodeEncodeAgree : Obligations.DecodeEncodeAgree := by
  refine ⟨fun _ => decode_encode, ?requests, encode_decodeAnswer, decodeTriple_encodeTriple,
    encodeTriple_decodeTriple⟩
  case requests =>
    intro r hwf
    obtain ⟨i, hdecode⟩ := decodeCommand_of_wf hwf
    obtain ⟨hi, -, hencode⟩ := decodeCommand_ok hdecode
    exact ⟨i, hdecode, hi, hencode⟩

/-- Settles O32: each record by evaluation. -/
theorem tableWordsDecode : Obligations.TableWordsDecode := by
  unfold Obligations.TableWordsDecode
  decide

end Sys2Proof
end

section
/-! The size of an op-word layout and the bytes of a frame (30_encoding.md R56 to R61; 40_framer.md R77). -/

namespace Sys2Proof.Machine

theorem lawful_iff (p : Params) :
    p.lawful = true ↔ (p.layout.map (·.reg)).Nodup ∧ (∀ row ∈ p.layout, row.words.length = 256) ∧
      (p.layout.flatMap (·.words)).Nodup := by
  simp [Params.lawful, and_assoc]

theorem regValid_iff (p : Params) (reg : Nat) : regValid p reg = true ↔ reg ∈ p.layout.map (·.reg) := by
  simp [regValid]

theorem flatMap_words_length {rows : List LayoutRow} (h : ∀ row ∈ rows, row.words.length = 256) :
    (rows.flatMap (·.words)).length = rows.length * 256 := by
  rw [List.length_flatMap, List.map_congr_left h, List.map_const', List.sum_replicate_nat]

/-- The rows' words are distinct, and there are 65536 words for rows of 256. -/
theorem layout_length_le {p : Params} (h : p.lawful = true) : p.layout.length ≤ 256 := by
  obtain ⟨-, hrows, hwords⟩ := (lawful_iff p).1 h
  have hcard : (p.layout.flatMap (·.words)).length ≤ Fintype.card Word := hwords.length_le_card
  rw [flatMap_words_length hrows, ← FinEnum.card_eq_fintypeCard, FinEnum.card_bitVec] at hcard
  omega

/-- Settles O5: valid registers are registers of the layout's rows, of which there are at most 256. -/
theorem atMost256ValidRegisters : Obligations.AtMost256ValidRegisters := by
  intro p regs hlawful hnodup hvalid
  have hsub : regs ⊆ p.layout.map (·.reg) := fun r hr => (regValid_iff p r).1 (hvalid r hr)
  calc regs.length ≤ (p.layout.map (·.reg)).length := (hnodup.subperm hsub).length_le
    _ = p.layout.length := List.length_map _
    _ ≤ 256 := layout_length_le hlawful

/-- Word `k` is at the offsets `2k` and `2k + 1` of the words' bytes, high byte first (R58). -/
theorem flatMap_be16_getElem? {words : List Word} {k : Nat} {x : Word} (h : words[k]? = some x) :
    (words.flatMap be16)[2 * k]? = some (x.extractLsb' 8 8) ∧
      (words.flatMap be16)[2 * k + 1]? = some (x.extractLsb' 0 8) := by
  induction words generalizing k with
  | nil => simp at h
  | cons y words ih =>
    simp only [List.flatMap_cons, be16_eq]
    cases k with
    | zero =>
      obtain rfl : y = x := by simpa using h
      exact ⟨rfl, rfl⟩
    | succ k => exact ih (by simpa using h)

/-- Behind the header stand the words' bytes. -/
theorem frame_getElem?_words (p : Params) (words : List Word) {j : Nat} (h : j < 2 * words.length) :
    (frame p words)[p.hdr.length + j]? = (words.flatMap be16)[j]? := by
  rw [frame, List.append_assoc, List.getElem?_append_right (Nat.le_add_right ..), Nat.add_sub_cancel_left,
    List.getElem?_append_left (by rwa [flatMap_be16_length])]

/-- Settles O6: each offset falls into one of the three parts that a frame is appended from. -/
theorem frameLayout : Obligations.FrameLayout := by
  intro p words
  refine ⟨frame_length p words, ?header, ?words, ?trailer⟩
  case header =>
    intro i hi
    rw [frame, List.append_assoc, List.getElem?_append_left hi]
  case words =>
    intro k x hx
    obtain ⟨hk, -⟩ := List.getElem?_eq_some_iff.1 hx
    rw [Nat.add_assoc, frame_getElem?_words p words (by omega), frame_getElem?_words p words (by omega)]
    exact flatMap_be16_getElem? hx
  case trailer =>
    intro j _
    have hfront : (p.hdr ++ words.flatMap be16).length = p.hdr.length + 2 * words.length := by
      rw [List.length_append, flatMap_be16_length]
    rw [frame, ← hfront, List.getElem?_append_right (Nat.le_add_right ..), Nat.add_sub_cancel_left]

end Sys2Proof.Machine
end

section
/-! Refusal of what is outside the grammar, and of nothing else (30_encoding.md R69, R70). -/

namespace Sys2Proof.Machine

/-- A request outside the grammar is fetched as a refusal. -/
theorem fetchMove_request_refused {r : CommandRecord} {e : DecodeError} (hdecode : decodeCommand r = .error e)
    (s : State) : fetchMove (.request r) s = .quiet (recordRefusal s) := by
  simp only [fetchMove, hdecode]

/-- Only a malformed list makes an operation set the refusal mark. -/
theorem effect_refused_of_wf {i : Instr} {s t : State} (h : Effect i s t) (hwf : i.wf = true) :
    t.refused = s.refused := by
  cases h with
  | refusal hbad => exact absurd hwf (Bool.eq_false_iff.1 hbad)
  | _ => rfl

/-- Settles O33: what the decoder refuses is fetched as a refusal; what it decodes is well-formed and runs. -/
theorem onlyMalformedRequestsAreRefused : Obligations.OnlyMalformedRequestsAreRefused := by
  intro s r e rest hin
  refine ⟨?refused, ?run⟩
  case refused =>
    intro hwf
    obtain ⟨_, hdecode⟩ := decodeCommand_of_not_wf hwf
    exact step_of_fetchMove_quiet hin (fetchMove_request_refused hdecode _)
  case run =>
    intro hwf
    obtain ⟨i, hdecode⟩ := decodeCommand_of_wf hwf
    obtain ⟨hi, hne, -⟩ := decodeCommand_ok hdecode
    obtain ⟨t, hexec⟩ := exec_next i hne (takeMove { move := .request r, env := e } rest s)
    have hrefused := effect_refused_of_wf (exec_effect hexec) hi
    exact ⟨t, (step_of_fetchMove_run hin (fetchMove_request hdecode _)).trans hexec, hrefused⟩

/-- Settles O34: the first check of SEND and of ACCEPT, the only instructions with a list. -/
theorem malformedListIsRefused : Obligations.MalformedListIsRefused :=
  fun _ _ => exec_malformed

end Sys2Proof.Machine
end

section
/-! No operation reads `READY_SENTINEL` (30_encoding.md R66). -/

namespace Sys2Proof.Machine

variable {i : Instr} {s t : State}

/-- The same state but for its `READY_SENTINEL`. -/
def withSentinel (b : Byte) (s : State) : State :=
  { s with cfg := { s.cfg with readySentinel := b } }

/-- No condition of a case reads the sentinel, so the same case has the same effect with another one. -/
theorem exec_withSentinel (b : Byte) (h : Effect i s t) : exec i (withSentinel b s) = .next (withSentinel b t) := by
  cases h with
  | refusal hbad => exact exec_malformed hbad
  | hold hi hwf hp => exact exec_hold hi hwf hp
  | sendClosed hp ho => exact exec_send_closed _ hp ho
  | sendNoRoom hp ho ha => exact exec_send_noRoom _ hp ho ha
  | sendEmpty hp ho hf ha hl => exact exec_send_empty _ hp ho hf ha hl
  | sendStart hp ho hf ha hl => exact exec_send_start _ hp ho hf ha hl
  | noCall hi hp =>
    obtain ⟨k, rfl⟩ | ⟨k, rfl⟩ := hi
    · exact exec_wrote_idle k hp
    · exact exec_error_idle k hp
  | overreport hp hk => exact exec_wrote_over hp hk
  | wroteLast hp hk hw => exact exec_wrote_last hp hk hw
  | wrotePart hp hk hw => exact exec_wrote_part hp hk hw
  | writeError hp => exact exec_error_sending _ hp
  | encode => rfl
  | acceptStopped hp hs => exact exec_accept_stopped _ hp hs
  | acceptClosed hp hs => exact exec_accept_closed hp hs
  | acceptPart hp hs hb hf => exact exec_accept_taken_part _ hp hs hb hf
  | acceptFull hp hs hb hf => exact exec_accept_taken_full _ hp hs hb hf
  | unpack hf => exact exec_unpack_full hf
  | discard hp => exact exec_discard hp
  | stopFirst hp hs => exact exec_stop_first hp hs
  | stopAgain hp hs => exact exec_stop_again hp hs
  | resetIdle hp => exact exec_reset_idle hp
  | resetSending hp => exact exec_reset_sending hp

/-- Settles O30: the effect of an operation, case by case with the other sentinel. -/
theorem sentinelIsNeverRead : Obligations.SentinelIsNeverRead :=
  fun _ _ _ b h => exec_withSentinel b (exec_effect h)

end Sys2Proof.Machine
end

section
/-! The op-word encoder: what ENCODE returns, and the two sub-fields recovered from it (40_framer.md R76, R77). -/

namespace Sys2Proof.Machine

/-- Settles O3: `execEncode` is this equation. -/
theorem encodeReturnsOpword : Obligations.EncodeReturnsOpword :=
  fun _ _ _ => rfl

variable {p : Params}

/-- A valid register of a lawful layout has a row, and its op-words are the entries of that row (R60). -/
theorem opword_of_regValid (hlawful : p.lawful = true) {reg : Nat} (hvalid : regValid p reg = true) :
    ∃ row ∈ p.layout, row.reg = reg ∧ ∀ val : Byte, row.words[val.toNat]? = some (opword p reg val) := by
  obtain ⟨hregs, hrows, -⟩ := (lawful_iff p).1 hlawful
  obtain ⟨row, hrow, rfl⟩ := List.mem_map.1 ((regValid_iff p reg).1 hvalid)
  refine ⟨row, hrow, rfl, fun val => ?_⟩
  have hval : val.toNat < row.words.length := by rw [hrows row hrow]; exact val.isLt
  simp only [opword, find_row p.layout hregs row hrow, List.getD_eq_getElem?_getD, List.getElem?_eq_getElem hval,
    Option.getD_some]

/-- Rows that share a word are the same row. -/
theorem row_eq_of_mem_words (hlawful : p.lawful = true) {row row' : LayoutRow} (hrow : row ∈ p.layout)
    (hrow' : row' ∈ p.layout) {word : Word} (hword : word ∈ row.words) (hword' : word ∈ row'.words) : row = row' := by
  obtain ⟨-, -, hwords⟩ := (lawful_iff p).1 hlawful
  obtain ⟨-, hdisjoint⟩ := List.nodup_flatMap.1 hwords
  have hsymm : Std.Symm (Function.onFun List.Disjoint LayoutRow.words) := ⟨fun _ _ => List.Disjoint.symm⟩
  by_contra hne
  exact hdisjoint.forall hrow hrow' hne hword hword'

theorem row_words_nodup (hlawful : p.lawful = true) {row : LayoutRow} (hrow : row ∈ p.layout) : row.words.Nodup := by
  obtain ⟨-, -, hwords⟩ := (lawful_iff p).1 hlawful
  exact (List.nodup_flatMap.1 hwords).1 row hrow

/-- `OPWORD` is injective on the valid registers: its word gives the row, and the place in the row. -/
theorem opword_injOn (hlawful : p.lawful = true) :
    Set.InjOn (fun x : Nat × Byte => opword p x.1 x.2) {x | regValid p x.1 = true} := by
  rintro ⟨reg, val⟩ hvalid ⟨reg', val'⟩ hvalid' (heq : opword p reg val = opword p reg' val')
  obtain ⟨row, hrow, rfl, hword⟩ := opword_of_regValid hlawful hvalid
  obtain ⟨row', hrow', rfl, hword'⟩ := opword_of_regValid hlawful hvalid'
  have hsame : row.words[val.toNat]? = row'.words[val'.toNat]? := by rw [hword, hword', heq]
  obtain rfl : row = row' := row_eq_of_mem_words hlawful hrow hrow' (List.mem_of_getElem? (hword val))
    (List.mem_of_getElem? (hsame ▸ hword val))
  obtain ⟨hlt, -⟩ := List.getElem?_eq_some_iff.1 (hword val)
  have hval : val.toNat = val'.toNat := (List.getElem?_inj hlt (row_words_nodup hlawful hrow)).1 hsame
  rw [BitVec.eq_of_toNat_eq hval]

/-- `REG_OF` and `VAL_OF` together: the inverse of `OPWORD` on the valid registers (R77). -/
noncomputable def fieldsOf (p : Params) : Word → Nat × Byte :=
  Function.invFunOn (fun x : Nat × Byte => opword p x.1 x.2) {x | regValid p x.1 = true}

theorem fieldsOf_opword (hlawful : p.lawful = true) {reg : Nat} (hvalid : regValid p reg = true) (val : Byte) :
    fieldsOf p (opword p reg val) = (reg, val) :=
  (opword_injOn hlawful).leftInvOn_invFunOn (show (reg, val) ∈ {x : Nat × Byte | regValid p x.1 = true} from hvalid)

/-- Settles O4: ENCODE returns the op-word, and `fieldsOf` recovers both its fields. -/
theorem encodedFieldsAreRecovered : Obligations.EncodedFieldsAreRecovered := by
  intro p hlawful
  refine ⟨fun word => (fieldsOf p word).1, fun word => (fieldsOf p word).2, ?_⟩
  rintro s reg val rfl hvalid
  have hfields := fieldsOf_opword hlawful hvalid val
  exact ⟨_, _, encodeReturnsOpword reg val s, rfl, congrArg Prod.fst hfields, congrArg Prod.snd hfields⟩

end Sys2Proof.Machine
end

section
/-! The cases of SEND and of XFER as equations for the whole next state (40_framer.md R78 to R80). -/

namespace Sys2Proof.Machine

variable {s : State}

/-- A SEND that completes at once was IDLE, so only its result is written. -/
theorem completeSend_of_idle (hidle : s.frPhase = .idle) (r : FrResult) :
    completeSend r s = { s with frResult := r, returned := some (.sendDone r) } := by
  rw [completeSend, ← hidle]

/-- An empty frame leaves the buffer as it was. -/
theorem loadFrame_of_empty {words : List Word} (hempty : frameLength s.cfg words.length = 0) :
    loadFrame words.length words s = { s with len := 0, w := 0 } := by
  have hframe : frame s.cfg words = [] := List.eq_nil_of_length_eq_zero ((frame_length _ _).trans hempty)
  rw [loadFrame, hframe, hempty]
  rfl

/-- Settles O7: the case of SEND that the hypotheses name, its result written by `completeSend` or its frame by
`loadFrame`. -/
theorem sendChecksThenStarts : Obligations.SendChecksThenStarts := by
  intro words s
  refine ⟨?held, ?closed, ?noRoom, ?empty, ?start⟩
  case held => exact exec_hold rfl (beq_self_eq_true _)
  case closed =>
    intro hidle hclosed
    rw [exec_send_closed words hidle hclosed, completeSend_of_idle hidle]
  case noRoom =>
    intro hidle hopen hnoRoom
    rw [exec_send_noRoom words hidle hopen (hnoRoom.imp_left (not_fits_iff _ _).2), completeSend_of_idle hidle]
  case empty =>
    intro hidle hopen hfits halloc hempty
    rw [exec_send_empty words hidle hopen ((fits_iff _ _).2 hfits) halloc hempty,
      completeSend_of_idle (s := loadFrame words.length words s) hidle, loadFrame_of_empty hempty]
  case start => exact fun hidle hopen hfits halloc => exec_send_start words hidle hopen ((fits_iff _ _).2 hfits) halloc

/-- Settles O9: the case of XFER that the hypotheses name. -/
theorem xferAnswers : Obligations.XferAnswers :=
  fun k _ => ⟨exec_error_sending k, exec_wrote_over, exec_wrote_last, exec_wrote_part,
    fun hidle => ⟨exec_error_idle k hidle, exec_wrote_idle k hidle⟩⟩

end Sys2Proof.Machine
end

section
/-! Runs of answers `Wrote(k)` to one SEND (40_framer.md R79 to R83; 70_reset_and_hazards.md R131). -/

namespace Sys2Proof.Machine

variable {s : State} {words : List Word} {counts : List Nat}

/-! ## Accepted bytes add up -/

@[simp] theorem advance_zero (s : State) : advance 0 s = s := by
  simp [advance, pushWire, Memory.readBytes]

/-- Accepted bytes go to the wire one range after the other, so two answers do what one of both counts does. -/
theorem advance_advance (j k : Nat) (s : State) : advance k (advance j s) = advance (j + k) s := by
  simp only [advance, pushWire, Memory.readBytes_append, List.append_assoc, Nat.add_assoc]

/-- Answers that leave a remainder move the offset by their sum and leave the SEND in flight. -/
theorem execAll_wroteAll_part (hsending : s.frPhase = .sending) (hsum : s.w + counts.sum < s.len) :
    ∃ r, execAll (wroteAll counts) s = .next { advance counts.sum s with returned := r } := by
  induction counts generalizing s with
  | nil => exact ⟨s.returned, by rw [List.sum_nil, advance_zero]; rfl⟩
  | cons k counts ih =>
    rw [List.sum_cons] at hsum ⊢
    rw [← Nat.add_assoc] at hsum
    obtain ⟨r, hrest⟩ := ih (s := returningNothing (advance k s)) hsending hsum
    refine ⟨r, (execAll_cons (exec_wrote_part hsending (by omega) (by omega)) _).trans ?_⟩
    rw [← advance_advance]
    exact hrest

theorem wroteAll_append (ks ls : List Nat) : wroteAll (ks ++ ls) = wroteAll ks ++ wroteAll ls :=
  List.map_append ..

/-- Answers of which the last takes the last byte complete the SEND (R82). -/
theorem execAll_wroteAll_whole (hsending : s.frPhase = .sending) (hsum : s.w + counts.sum = s.len)
    (hpart : s.w + counts.dropLast.sum < s.len) :
    execAll (wroteAll counts) s = .next (completeSend .ok (advance counts.sum s)) := by
  obtain rfl | ⟨first, last, rfl⟩ := List.eq_nil_or_concat' counts
  · exact absurd hsum (Nat.ne_of_lt hpart)
  · rw [List.dropLast_concat] at hpart
    rw [List.sum_append, List.sum_singleton] at hsum ⊢
    obtain ⟨r, hfirst⟩ := execAll_wroteAll_part hsending hpart
    have hend : s.w + first.sum + last = s.len := by omega
    rw [wroteAll_append, execAll_append _ _ _ _ hfirst, ← advance_advance]
    exact execAll_cons (exec_wrote_last (s := { advance first.sum s with returned := r }) hsending
      (Nat.le_sub_of_add_le' (Nat.le_of_eq hend)) hend) []

/-! ## One SEND and its answers -/

/-- The bytes that a started SEND has on the wire are the first ones of its frame. -/
theorem wire_advance_started (hwf : s.fbuf.wf = true) (words : List Word) {k : Nat}
    (hk : k ≤ frameLength s.cfg words.length) :
    (advance k (startSending (loadFrame words.length words s))).wire = s.wire ++ (frame s.cfg words).take k := by
  rw [← readBytes_loadFrame hwf, Memory.readBytes_take _ _ _ _ hk]
  rfl

section started
variable (hidle : s.frPhase = .idle) (hopen : s.env.transportOpen = true) (halloc : s.env.allocOk = true)
  (hfits : ∀ most, s.cfg.maxWords = some most → words.length ≤ most)
include hidle hopen halloc hfits

/-- A SEND of a nonempty frame that passes its checks is in flight when the answers come. -/
theorem execAll_send_cons (hlong : 0 < frameLength s.cfg words.length) (ops : List Instr) :
    execAll (.send words.length words :: ops) s = execAll ops (startSending (loadFrame words.length words s)) :=
  execAll_cons (exec_send_start words hidle hopen ((fits_iff _ _).2 hfits) halloc hlong) ops

theorem execAll_send_whole (hsum : counts.sum = frameLength s.cfg words.length)
    (hpart : counts.dropLast.sum < frameLength s.cfg words.length) :
    execAll (.send words.length words :: wroteAll counts) s =
      .next (completeSend .ok (advance counts.sum (startSending (loadFrame words.length words s)))) := by
  rw [execAll_send_cons hidle hopen halloc hfits (Nat.zero_lt_of_lt hpart)]
  exact execAll_wroteAll_whole rfl (by simpa using hsum) (by simpa using hpart)

theorem execAll_send_failed (hpart : counts.sum < frameLength s.cfg words.length) (k : Nat) :
    execAll (.send words.length words :: wroteAll counts ++ [.xferError k]) s =
      .next (completeSend .transportError
        (advance counts.sum (startSending (loadFrame words.length words s)))) := by
  rw [List.cons_append, execAll_send_cons hidle hopen halloc hfits (Nat.zero_lt_of_lt hpart)]
  obtain ⟨r, hwrites⟩ := execAll_wroteAll_part (s := startSending (loadFrame words.length words s)) rfl
    (by simpa using hpart)
  rw [execAll_append _ _ _ _ hwrites]
  exact execAll_cons (exec_error_sending k rfl) []

end started

/-- Settles O11: nothing is added to the wire or to the offset, whatever is returned. -/
theorem zeroWritesNeverComplete : Obligations.ZeroWritesNeverComplete := by
  intro n s hsending hoffer
  have hzero : (List.replicate n 0).sum = 0 := by simp
  obtain ⟨r, hrun⟩ := execAll_wroteAll_part (counts := List.replicate n 0) hsending (by omega)
  rw [hzero, advance_zero] at hrun
  exact ⟨_, hrun, sameFramer_refl s, sameUnpacker_refl s, sameMarks_refl s, sameEnvironment_refl s⟩

/-- Settles O12: the answers put the first `L` bytes of the frame on the wire, which are all of it. -/
theorem partialWritesSendWholeFrame : Obligations.PartialWritesSendWholeFrame := by
  intro words counts s hwf hidle hopen halloc hfits hsum hpart
  refine ⟨_, execAll_send_whole hidle hopen halloc hfits hsum hpart, ?wire, rfl, rfl, rfl, sameUnpacker_refl s,
    sameMarks_refl s, sameEnvironment_refl s⟩
  case wire =>
    rw [completeSend_wire, wire_advance_started hwf words (Nat.le_of_eq hsum), hsum, ← frame_length, List.take_length]

/-- Settles O13: the failed SEND leaves the accepted bytes on the wire and the framer IDLE, so a second SEND sends its whole
frame. -/
theorem resendFollowsFailedPrefix : Obligations.ResendFollowsFailedPrefix := by
  intro words again counts k s hwf hidle hopen halloc hfits hpart hlong
  have hfailed := execAll_send_failed hidle hopen halloc (fun most hmost => (hfits most hmost).1) hpart k
  have hwire := wire_advance_started hwf words (Nat.le_of_lt hpart)
  obtain ⟨u, hagain, hwire', -, hresult, -⟩ := partialWritesSendWholeFrame again [frameLength s.cfg again.length]
    (completeSend .transportError (advance counts.sum (startSending (loadFrame words.length words s))))
    (Memory.wf_writeBytes _ hwf _ _) rfl hopen halloc (fun most hmost => (hfits most hmost).2) (by simp)
    (by simpa using hlong)
  exact ⟨_, u, hfailed, rfl, rfl, hwire, hagain, hresult, hwire'⟩

end Sys2Proof.Machine
end

section
/-! When `fr_result` changes (40_framer.md R86). -/

namespace Sys2Proof.Machine

variable {i : Instr} {s t : State}

/-- `fr_result` is kept and nothing is reported of a SEND, or RESET makes it NONE, or SEND or XFER completes a SEND
with it. -/
theorem effect_result (h : Effect i s t) :
    (i ≠ .reset ∧ t.frResult = s.frResult ∧ ∀ r, t.returned ≠ some (.sendDone r)) ∨
    (i = .reset ∧ t.frResult = .none ∧ t.returned = none) ∨
    (((∃ n words, i = .send n words) ∨ (∃ k, i = .xferWrote k) ∨ (∃ k, i = .xferError k)) ∧
      t.frPhase = .idle ∧ t.returned = some (.sendDone t.frResult)) := by
  cases h with
  | resetIdle | resetSending => exact .inr (.inl ⟨rfl, rfl, rfl⟩)
  | sendClosed | sendNoRoom | sendEmpty => exact .inr (.inr ⟨.inl ⟨_, _, rfl⟩, rfl, rfl⟩)
  | wroteLast => exact .inr (.inr ⟨.inr (.inl ⟨_, rfl⟩), rfl, rfl⟩)
  | writeError => exact .inr (.inr ⟨.inr (.inr ⟨_, rfl⟩), rfl, rfl⟩)
  | refusal hbad => exact .inl ⟨(by rintro rfl; cases hbad), rfl, nofun⟩
  | hold hi => exact .inl ⟨(by rintro rfl; cases hi), rfl, nofun⟩
  | noCall hi => exact .inl ⟨(by rintro rfl; simp at hi), rfl, nofun⟩
  | _ => exact .inl ⟨nofun, rfl, nofun⟩

/-- Settles O15: each clause holds in each case of `effect_result`. -/
theorem resultChangesOnlyAtCompletion : Obligations.ResultChangesOnlyAtCompletion := by
  intro i s t hexec
  obtain ⟨hi, hkept, hreturned⟩ | ⟨hi, hnone, hreturned⟩ | ⟨hi, hidle, hreturned⟩ := effect_result (exec_effect hexec)
  · exact ⟨fun h => absurd h hi, fun _ h => absurd hkept h, fun r h => absurd h (hreturned r)⟩
  · exact ⟨fun _ => hnone, fun h => absurd hi h, fun r h => nomatch hreturned.symm.trans h⟩
  · refine ⟨?reset, fun _ _ => ⟨hidle, hreturned, hi⟩, ?returned⟩
    case reset => rintro rfl; simp at hi
    case returned =>
      intro r h
      obtain rfl : t.frResult = r := by simpa using hreturned.symm.trans h
      exact ⟨rfl, hidle⟩

end Sys2Proof.Machine
end

section
/-! The two units do not write each other, and the framer does not read the unpacker (40_framer.md R75, R87;
41_unpacker.md R90). -/

namespace Sys2Proof.Machine

variable {i : Instr} {s t : State}

/-- The operations of the framer (R75). -/
def framerInstr : Instr → Bool
  | .send _ _ | .encode _ _ | .xferWrote _ | .xferError _ => true
  | .reset | .accept _ _ | .discard | .stop | .unpack => false

/-- The operations of the unpacker (R90). -/
def unpackerInstr : Instr → Bool
  | .accept _ _ | .discard | .stop | .unpack => true
  | .reset | .send _ _ | .encode _ _ | .xferWrote _ | .xferError _ => false

/-- Only the unpacker's operations and RESET write the unpacker. -/
theorem effect_sameUnpacker (h : Effect i s t) (hi : framerInstr i = true) : sameUnpacker s t := by
  cases h with
  | acceptPart | acceptFull | discard | stopFirst | resetIdle | resetSending => exact nomatch hi
  | _ => exact sameUnpacker_refl s

/-- Only the framer's operations and RESET write the framer or the fault mark. -/
theorem effect_sameFramer (h : Effect i s t) (hi : unpackerInstr i = true) : sameFramer s t ∧ t.fault = s.fault := by
  cases h with
  | sendClosed | sendNoRoom | sendEmpty | sendStart | overreport | wroteLast | wrotePart | writeError | resetIdle
  | resetSending => exact nomatch hi
  | _ => exact ⟨sameFramer_refl s, rfl⟩

/-- No operation writes the parameters, the moves to come or the sampled inputs. -/
theorem effect_surroundings (h : Effect i s t) :
    t.cfg = s.cfg ∧ t.inputs = s.inputs ∧ t.later = s.later ∧ t.env = s.env := by
  obtain ⟨hinputs, hlater⟩ := effect_moves h
  exact ⟨effect_cfg h, hinputs, hlater, by cases h <;> rfl⟩

/-- Settles O28: the operations named are the framer's and the unpacker's. -/
theorem unitsDoNotWriteEachOther : Obligations.UnitsDoNotWriteEachOther := by
  intro s t
  refine ⟨?framer, ?unpacker⟩
  case framer =>
    have hframer : ∀ i, framerInstr i = true → exec i s = .next t →
        sameUnpacker s t ∧ t.cfg = s.cfg ∧ t.inputs = s.inputs ∧ t.later = s.later ∧ t.env = s.env :=
      fun i hi hexec => ⟨effect_sameUnpacker (exec_effect hexec) hi, effect_surroundings (exec_effect hexec)⟩
    rintro n k reg words val (h | h | h | h) <;> exact hframer _ rfl h
  case unpacker =>
    have hunpacker : ∀ i, unpackerInstr i = true → exec i s = .next t → sameFramer s t ∧ t.fault = s.fault ∧
        t.cfg = s.cfg ∧ t.inputs = s.inputs ∧ t.later = s.later ∧ t.env = s.env := by
      intro i hi hexec
      obtain ⟨hsame, hfault⟩ := effect_sameFramer (exec_effect hexec) hi
      exact ⟨hsame, hfault, effect_surroundings (exec_effect hexec)⟩
    rintro m bytes (h | h | h | h) <;> exact hunpacker _ rfl h

/-- The same state but for its unpacker. -/
def withUnpacker (rbuf : Memory) (fill : Nat) (stopped : Bool) (sink : List SinkEvent) (s : State) : State :=
  { s with rbuf := rbuf, fill := fill, stopped := stopped, sink := sink }

section independence
variable (rbuf : Memory) (fill : Nat) (stopped : Bool) (sink : List SinkEvent) (s : State)

/-! No check of a framer operation reads the unpacker, so exchanging it commutes with each branch. -/

theorem sendNext_withUnpacker (n : Nat) (words : List Word) :
    sendNext n words (withUnpacker rbuf fill stopped sink s) =
      withUnpacker rbuf fill stopped sink (sendNext n words s) := by
  simp only [sendNext, buildAndStart, apply_ite (withUnpacker rbuf fill stopped sink)]
  rfl

theorem xferWroteNext_withUnpacker (k : Nat) :
    xferWroteNext k (withUnpacker rbuf fill stopped sink s) =
      withUnpacker rbuf fill stopped sink (xferWroteNext k s) := by
  simp only [xferWroteNext, apply_ite (withUnpacker rbuf fill stopped sink)]
  rfl

theorem xferErrorNext_withUnpacker :
    xferErrorNext (withUnpacker rbuf fill stopped sink s) =
      withUnpacker rbuf fill stopped sink (xferErrorNext s) := by
  simp only [xferErrorNext, apply_ite (withUnpacker rbuf fill stopped sink)]
  rfl

end independence

/-- Settles O29: each framer operation commutes with an exchange of the unpacker. -/
theorem framerIgnoresUnpacker : Obligations.FramerIgnoresUnpacker := by
  rintro i s t rbuf fill stopped sink (⟨n, words, rfl⟩ | ⟨reg, val, rfl⟩ | ⟨k, rfl⟩ | ⟨k, rfl⟩) hexec
  · cases hexec
    exact congrArg _ (sendNext_withUnpacker rbuf fill stopped sink s n words)
  · cases hexec
    rfl
  · cases hexec
    exact congrArg _ (xferWroteNext_withUnpacker rbuf fill stopped sink s k)
  · cases hexec
    exact congrArg _ (xferErrorNext_withUnpacker rbuf fill stopped sink s)

end Sys2Proof.Machine
end

section
/-! Endless runs: a SEND in flight never ends while no answer takes a byte (40_framer.md R81, R130, R136). -/

namespace Sys2Proof.Machine

variable {i : Instr} {s t u : State}

/-! ## `Wrote(0)` for ever -/

theorem decodeAnswer_wrote (k : Nat) : decodeAnswer { kind := 0, k := k } = .xferWrote k := rfl

theorem exec_wrote_zero (hsending : s.frPhase = .sending) (hoffer : s.w < s.len) :
    exec (.xferWrote 0) s = .next (returningNothing s) := by
  rw [exec_wrote_part hsending (Nat.zero_le _) (Nat.ne_of_lt hoffer), advance_zero]

/-- The cycle's one answer is listed, taken and answers the pending call; the list is empty again. -/
theorem step_zero_answer {e : Env} (hsending : s.frPhase = .sending) (hoffer : s.w < s.len) (hin : s.inputs = [])
    (hlater : s.later = .cycle [{ move := .answer { kind := 0, k := 0 }, env := e }]) :
    step s = .next { s with env := e, returned := none } := by
  rw [← step_refill, refill_of_cycle hin hlater, step_of_fetchMove_run rfl (fetchMove_answer _ _),
    decodeAnswer_wrote, hin]
  exact exec_wrote_zero hsending hoffer

/-- Settles O42: each step leaves a state from which the next step is the same. -/
theorem zeroAnswersForever : Obligations.ZeroAnswersForever := by
  intro s e n hsending hoffer hin hlater
  induction n generalizing s with
  | zero => exact stepAll_succ (step_zero_answer hsending hoffer hin hlater) 0
  | succ n ih =>
    rw [stepAll_succ (step_zero_answer hsending hoffer hin hlater)]
    exact ih { s with env := e, returned := none } hsending hoffer hin hlater

/-! ## Requests in between -/

/-- A step takes its move from those to come and adds none. -/
theorem step_toCome (h : step s = .next t) {x : Input} (hx : t.toCome x) : s.toCome x := by
  obtain ⟨i, u, hfetch, heffect⟩ | hquiet := step_cases h
  · obtain ⟨y, rest, hin, hrun⟩ := fetch_run hfetch
    obtain ⟨-, hlater⟩ := toCome_of_refill hin
    obtain ⟨hinputs, hlaters⟩ := effect_moves heffect
    obtain ⟨_, -, -, rfl⟩ | ⟨_, -, -, rfl⟩ | ⟨_, -, -, rfl⟩ := hrun
    all_goals exact hlater t x hinputs hlaters hx
  · obtain rfl | ⟨y, rest, hin, rfl | rfl⟩ := fetch_quiet hquiet
    · exact hx
    · exact (toCome_of_refill hin).2 (takeMove y rest (refill s)) x rfl rfl hx
    · exact (toCome_of_refill hin).2 (recordRefusal (takeMove y rest (refill s))) x rfl rfl hx

/-- A SEND in flight that still offers a byte, while only the requests of R130 wait. -/
structure InFlight (s : State) : Prop where
  sending : s.frPhase = .sending
  offer : s.w < s.len
  waiting : ∀ j ∈ s.held, holds j = true

/-- `t` has both units, the fault mark and the parameters of `s`, and no request waits in it that did not wait or that
does not hold. -/
structure FlightKept (s t : State) : Prop where
  framer : sameFramer s t
  unpacker : sameUnpacker s t
  fault : t.fault = s.fault
  cfg : t.cfg = s.cfg
  waiting : ∀ j ∈ t.held, j ∈ s.held ∨ holds j = true

theorem flightKept_refl (s : State) : FlightKept s s :=
  ⟨sameFramer_refl s, sameUnpacker_refl s, rfl, rfl, fun _ => .inl⟩

theorem flightKept_trans (hst : FlightKept s t) (htu : FlightKept t u) : FlightKept s u where
  framer := sameFramer_trans hst.framer htu.framer
  unpacker := sameUnpacker_trans hst.unpacker htu.unpacker
  fault := htu.fault.trans hst.fault
  cfg := htu.cfg.trans hst.cfg
  waiting := fun j hj => (htu.waiting j hj).elim (hst.waiting j) .inr

theorem inFlight_of_flightKept (hs : InFlight s) (h : FlightKept s t) : InFlight t := by
  obtain ⟨hphase, -, hlen, hw, -⟩ := h.framer
  refine ⟨hphase.trans hs.sending, ?_, fun j hj => (h.waiting j hj).elim (hs.waiting j) id⟩
  rw [hw, hlen]
  exact hs.offer

theorem flightKept_takeMove_refill (x : Input) (rest : List Input) (s : State) :
    FlightKept s (takeMove x rest (refill s)) :=
  ⟨by simp [sameFramer], by simp [sameUnpacker], refill_fault s, refill_cfg s, fun j hj => .inl (by simpa using hj)⟩

theorem flightKept_takeHeld (place : Nat) (s : State) : FlightKept s (takeHeld place s) :=
  { flightKept_refl s with waiting := fun _ hj => .inl (List.mem_of_mem_eraseIdx hj) }

theorem flightKept_recordRefusal (s : State) : FlightKept s (recordRefusal s) :=
  { flightKept_refl s with }

theorem flightKept_hold (hi : holds i = true) (s : State) : FlightKept s (hold i s) :=
  { flightKept_refl s with
    waiting := fun j hj => (List.mem_append.1 hj).imp_right (fun h => by rwa [List.mem_singleton.1 h]) }

/-- What may run without ending a SEND in flight: the requests that hold, ENCODE, and an answer that took no byte. -/
def keepsFlight : Instr → Bool
  | .encode _ _ => true
  | .xferWrote k => k == 0
  | i => holds i

theorem keepsFlight_of_holds (h : holds i = true) : keepsFlight i = true := by
  cases i with
  | encode => rfl
  | xferWrote => exact nomatch h
  | _ => exact h

theorem effect_flightKept (h : Effect i s t) (hi : keepsFlight i = true) (hs : InFlight s) : FlightKept s t := by
  have hsending := hs.sending
  have hoffer := hs.offer
  cases h with
  | refusal => exact flightKept_recordRefusal s
  | hold hholds => exact flightKept_hold hholds s
  | encode => exact { flightKept_refl s with }
  | overreport _ hk | wroteLast _ _ hk =>
    obtain rfl := eq_of_beq hi
    omega
  | wrotePart =>
    obtain rfl := eq_of_beq hi
    rw [advance_zero]
    exact { flightKept_refl s with }
  | writeError | unpack | resetIdle | resetSending => exact nomatch hi
  | _ => exact nomatch hsending.symm.trans ‹s.frPhase = .idle›

theorem keepsFlight_of_decodeCommand {r : CommandRecord} (hdecode : decodeCommand r = .ok i) (hr : r.cmd ≠ 0x0) :
    keepsFlight i = true := by
  obtain ⟨-, hunpack, hencode⟩ := decodeCommand_ok hdecode
  cases i with
  | reset => cases hencode; exact absurd rfl hr
  | xferWrote | xferError => cases hencode
  | unpack => exact absurd rfl hunpack
  | _ => rfl

theorem keepsFlight_of_decodeAnswer {r : AnswerRecord} (hkind : r.kind = 0) (hk : r.k = 0) :
    keepsFlight (decodeAnswer r) = true := by
  simp [decodeAnswer, hkind, hk, keepsFlight]

section schedule
variable (hs : InFlight s) (hmoves : ∀ x, s.toCome x → idleWhileSending x.move = true)
include hs hmoves

/-- A fetched request, answer or waiting request keeps the SEND in flight. -/
theorem fetch_run_keepsFlight (hfetch : fetch s = .run i u) : keepsFlight i = true ∧ FlightKept s u := by
  obtain ⟨x, rest, hin, hrun⟩ := fetch_run hfetch
  have hx := hmoves x (toCome_of_refill hin).1
  have htaken := flightKept_takeMove_refill x rest s
  obtain ⟨r, hmove, hdecode, rfl⟩ | ⟨r, hmove, rfl, rfl⟩ | ⟨place, -, hheld, rfl⟩ := hrun
  · rw [hmove] at hx
    exact ⟨keepsFlight_of_decodeCommand hdecode (of_decide_eq_true hx), htaken⟩
  · rw [hmove] at hx
    obtain ⟨hkind, hk⟩ := of_decide_eq_true hx
    exact ⟨keepsFlight_of_decodeAnswer hkind hk, htaken⟩
  · exact ⟨keepsFlight_of_holds (hs.waiting i (List.mem_of_getElem? hheld)),
      flightKept_trans htaken (flightKept_takeHeld place _)⟩

theorem step_flightKept : ∃ t, step s = .next t ∧ FlightKept s t := by
  cases hfetch : fetch s with
  | run i u =>
    obtain ⟨hi, hu⟩ := fetch_run_keepsFlight hs hmoves hfetch
    obtain ⟨t, hexec⟩ := exec_next i (by rintro rfl; cases hi) u
    have ht := effect_flightKept (exec_effect hexec) hi (inFlight_of_flightKept hs hu)
    exact ⟨t, by rw [step, hfetch]; exact hexec, flightKept_trans hu ht⟩
  | quiet u =>
    refine ⟨u, by rw [step, hfetch], ?_⟩
    obtain rfl | ⟨x, rest, -, rfl | rfl⟩ := fetch_quiet hfetch
    · exact flightKept_refl u
    · exact flightKept_takeMove_refill x rest s
    · exact flightKept_trans (flightKept_takeMove_refill x rest s) (flightKept_recordRefusal _)

/-- A SEND in flight stays in flight over any number of such steps. -/
theorem stepAll_flightKept (n : Nat) : ∃ t, stepAll n s = .next t ∧ FlightKept s t := by
  induction n generalizing s with
  | zero => exact ⟨s, rfl, flightKept_refl s⟩
  | succ n ih =>
    obtain ⟨t, hstep, hst⟩ := step_flightKept hs hmoves
    obtain ⟨u, hrun, htu⟩ := ih (inFlight_of_flightKept hs hst) (fun x hx => hmoves x (step_toCome hstep hx))
    exact ⟨u, (stepAll_succ hstep n).trans hrun, flightKept_trans hst htu⟩

end schedule

/-- Settles O43: every step keeps the SEND in flight and everything the statement names. -/
theorem sendNeverEndsOnZeroAnswers : Obligations.SendNeverEndsOnZeroAnswers := by
  intro s n hsending hoffer hwaiting hmoves
  obtain ⟨t, hrun, hkept⟩ := stepAll_flightKept ⟨hsending, hoffer, hwaiting⟩ hmoves n
  exact ⟨t, hrun, hkept.framer, hkept.unpacker, hkept.fault, hkept.cfg⟩

end Sys2Proof.Machine
end

section
/-! No step stops (10_state.md R10; 60_exceptions.md R102): the one fault is UNPACK's, and UNPACK is never fetched. -/

namespace Sys2Proof.Machine

variable {i : Instr} {s u : State}

/-- No port carries UNPACK, and only requests that hold wait (R95, R130). -/
theorem fetch_run_ne_unpack (hfetch : fetch s = .run i u) (hwaiting : ∀ j ∈ s.held, holds j = true) :
    i ≠ .unpack := by
  obtain ⟨x, rest, -, ⟨r, -, hdecode, -⟩ | ⟨r, -, rfl, -⟩ | ⟨place, -, hheld, -⟩⟩ := fetch_run hfetch
  · obtain ⟨-, hne, -⟩ := decodeCommand_ok hdecode
    exact hne
  · exact decodeAnswer_ne_unpack r
  · rintro rfl
    exact nomatch hwaiting _ (List.mem_of_getElem? hheld)

/-- Settles O38: a fetched instruction is not UNPACK, so it answers a next state. -/
theorem stepAlwaysAnswersNext : Obligations.StepAlwaysAnswersNext := by
  intro s h
  unfold step
  cases hfetch : fetch s with
  | run i u => exact exec_next i (fetch_run_ne_unpack hfetch fun j hj => (h.waiting j hj).1) u
  | quiet u => exact ⟨u, rfl⟩

/-- Settles O23: the fault of `execUnpack`, and the two decoders never answer UNPACK. -/
theorem unpackStopsOnPartialBlock : Obligations.UnpackStopsOnPartialBlock := by
  refine ⟨exec_unpack_fault, fun r hdecode => ?_, decodeAnswer_ne_unpack⟩
  obtain ⟨-, hne, -⟩ := decodeCommand_ok hdecode
  exact hne rfl

end Sys2Proof.Machine
end

section
/-! The cases of DISCARD, STOP and ACCEPT as equations for the whole next state (41_unpacker.md R91 to R94, R99, R100). -/

namespace Sys2Proof.Machine

/-- Settles O25: the two cases of DISCARD. -/
theorem discardClearsFillOnly : Obligations.DiscardClearsFillOnly :=
  fun _ => ⟨exec_hold rfl rfl, exec_discard⟩

/-- Settles O26: the three cases of STOP. -/
theorem stopEndsStreamOnce : Obligations.StopEndsStreamOnce :=
  fun _ => ⟨exec_hold rfl rfl, exec_stop_first, exec_stop_again⟩

/-- Settles O18: the case of ACCEPT that the hypotheses name; the codes by evaluation. -/
theorem acceptAppendsAndEmits : Obligations.AcceptAppendsAndEmits := by
  intro bytes s
  refine ⟨exec_hold rfl (beq_self_eq_true _), exec_accept_stopped bytes, ?closed, exec_accept_part bytes, ?full, rfl⟩
  case closed =>
    rintro hidle hrunning rfl
    exact exec_accept_closed hidle hrunning
  case full => exact fun hidle hrunning hfill => exec_accept_full bytes hidle hrunning (Nat.lt_succ_of_le hfill)

end Sys2Proof.Machine
end

section
/-! The overrun guard: an ACCEPT stores what it takes of its chunk, and the rest has no effect (41_unpacker.md R92). -/

namespace Sys2Proof.Machine

variable {s : State} {bs : List Byte}

/-- The next state of an ACCEPT that takes exactly the bytes `bs`: they are appended, and a full block is finished. -/
def appendChunk (bs : List Byte) (s : State) : State :=
  if s.fill + bs.length = 3072 then finishBlock (appendRaw bs s) else returning (.accepted .appended) (appendRaw bs s)

theorem appendChunk_cases (bs : List Byte) (s : State) :
    appendChunk bs s = finishBlock (appendRaw bs s) ∨
      appendChunk bs s = returning (.accepted .appended) (appendRaw bs s) :=
  ite_eq_or_eq ..

/-- Finished or not, the block holds the appended bytes. -/
theorem appendChunk_rbuf (bs : List Byte) (s : State) : (appendChunk bs s).rbuf = s.rbuf.writeBytes s.fill bs := by
  obtain h | h := appendChunk_cases bs s <;> rw [h] <;> rfl

/-- Neither the append nor the end of a block writes anything outside the unpacker, or the stop latch. -/
theorem appendChunk_frame (bs : List Byte) (s : State) :
    sameFramer s (appendChunk bs s) ∧ sameMarks s (appendChunk bs s) ∧ sameEnvironment s (appendChunk bs s) ∧
      (appendChunk bs s).stopped = s.stopped := by
  obtain h | h := appendChunk_cases bs s <;> rw [h] <;>
    exact ⟨sameFramer_refl s, sameMarks_refl s, sameEnvironment_refl s, rfl⟩

/-- An ACCEPT of a running, idle block appends the bytes it takes. -/
theorem exec_accept_taken (hidle : s.frPhase = .idle) (hrunning : s.stopped = false) (hne : bs ≠ []) :
    exec (.accept bs.length bs) s = .next (appendChunk (bs.take (taken bs.length s)) s) := by
  unfold appendChunk
  split
  · exact exec_accept_taken_full bs hidle hrunning hne ‹_›
  · exact exec_accept_taken_part bs hidle hrunning hne ‹_›

/-- A chunk that fits is taken whole. -/
theorem exec_accept_fitting (hidle : s.frPhase = .idle) (hrunning : s.stopped = false) (hne : bs ≠ [])
    (hroom : s.fill + bs.length ≤ 3072) : exec (.accept bs.length bs) s = .next (appendChunk bs s) := by
  have htaken : taken bs.length s = bs.length := by rw [taken_eq]; omega
  rw [exec_accept_taken hidle hrunning hne, htaken, List.take_length]

/-- A written run reads as its bytes, one by one. -/
theorem read_writeBytes_eq_getElem? {m : Memory} (hwf : m.wf = true) (a : Nat) {j : Nat} (hj : j < bs.length) :
    some ((m.writeBytes a bs).read (a + j)) = bs[j]? := by
  have hrun := Memory.readBytes_getElem? (m.writeBytes a bs) a bs.length j
  rw [Memory.readBytes_writeBytes m hwf, if_pos hj] at hrun
  exact hrun.symm

/-- Settles O19: the ACCEPT writes the bytes it takes as one run at F, and the chunk of just these bytes fits. -/
theorem acceptStoresWithinBlock : Obligations.AcceptStoresWithinBlock := by
  intro bytes s hwf hidle hrunning hne hfill
  have hpos : 0 < bytes.length := List.length_pos_iff.2 hne
  have hexec := exec_accept_taken hidle hrunning hne
  rw [taken_eq] at hexec
  generalize hn : min bytes.length (3072 - s.fill) = n at hexec ⊢
  have hlen : (bytes.take n).length = n := by rw [List.length_take]; omega
  have hnonempty : bytes.take n ≠ [] := List.length_pos_iff.1 (by omega)
  have htruncated := exec_accept_fitting hidle hrunning hnonempty (by omega)
  rw [hlen] at htruncated
  refine ⟨_, hexec, ?stored, ?kept, htruncated, appendChunk_frame _ s⟩
  case stored =>
    intro j hj
    rw [appendChunk_rbuf, read_writeBytes_eq_getElem? hwf _ (by omega), List.getElem?_take_of_lt hj]
  case kept =>
    intro a ha
    rw [appendChunk_rbuf, Memory.read_writeBytes _ hwf, hlen, if_neg ha]

end Sys2Proof.Machine
end

section
/-! What UNPACK returns, and the event of the ACCEPT that fills the block (41_unpacker.md R95 to R97). -/

namespace Sys2Proof.Machine

/-- A field of `lo` low bits below another, as a number. -/
theorem toNat_append_eq_add {hi lo : Nat} (x : BitVec hi) (y : BitVec lo) :
    (x ++ y).toNat = y.toNat + 2 ^ lo * x.toNat := by
  rw [BitVec.toNat_append, ← Nat.shiftLeft_add_eq_or_of_lt y.isLt, Nat.shiftLeft_eq, Nat.mul_comm, Nat.add_comm]

theorem tripleAnalog_toNat (b0 b1 : Byte) :
    (tripleAnalog b0 b1).toNat = b0.toNat % 64 + 64 * (b1.toNat % 16) := by
  rw [tripleAnalog_eq, toNat_append_eq_add]
  simp

theorem tripleLogic_toNat (b1 b2 : Byte) :
    (tripleLogic b1 b2).toNat = b1.toNat / 16 % 4 + 4 * (b2.toNat % 64) := by
  rw [tripleLogic_eq, toNat_append_eq_add]
  simp [Nat.shiftRight_eq_div_pow]

variable {i : Nat} (m : Memory)

theorem slots_getElem? (hi : i < 1024) : (slots m)[i]? = some (slot m i) := by
  simp [slots, hi]

theorem unpackAnalog_getElem? (hi : i < 1024) :
    (unpackAnalog m)[i]? = some (tripleAnalog (m.read (3 * i)) (m.read (3 * i + 1))) := by
  rw [unpackAnalog, List.getElem?_map, slots_getElem? m hi]
  rfl

theorem unpackLogic_getElem? (hi : i < 1024) :
    (unpackLogic m)[i]? = some (tripleLogic (m.read (3 * i + 1)) (m.read (3 * i + 2))) := by
  rw [unpackLogic, List.getElem?_map, slots_getElem? m hi]
  rfl

/-- Settles O21: each element is a field of its slot's triple. -/
theorem unpackDecodesEverySlot : Obligations.UnpackDecodesEverySlot := by
  intro s hfull
  refine ⟨_, _, exec_unpack_full hfull, unpackLogic_length _, unpackAnalog_length _, fun i hi => ⟨?analog, ?logic⟩⟩
  case analog => exact ⟨_, unpackAnalog_getElem? _ hi, tripleAnalog_toNat _ _⟩
  case logic => exact ⟨_, unpackLogic_getElem? _ hi, tripleLogic_toNat _ _⟩

/-- Settles O22: both decode the same filled block. -/
theorem acceptEmitsWhatUnpackReturns : Obligations.AcceptEmitsWhatUnpackReturns := by
  intro bytes s hidle hrunning hfill hfull
  exact ⟨_, _, _, _, exec_unpack_full rfl, rfl,
    exec_accept_full bytes hidle hrunning (Nat.lt_succ_of_le hfill) hfull, rfl, rfl⟩

end Sys2Proof.Machine
end

section
/-! Chunk independence (41_unpacker.md R103). -/

namespace Sys2Proof.Machine

variable {s : State} {chunks : List (List Byte)}

/-- Chunks go to the block one behind the other, so two appends do what one of both chunks does. -/
theorem appendRaw_appendRaw (bs cs : List Byte) (s : State) :
    appendRaw cs (appendRaw bs s) = appendRaw (bs ++ cs) s := by
  simp only [appendRaw, Memory.writeBytes_append, List.length_append, Nat.add_assoc]

theorem acceptAll_append (chunks more : List (List Byte)) :
    acceptAll (chunks ++ more) = acceptAll chunks ++ acceptAll more :=
  List.map_append ..

/-- Chunks that leave room in the block are appended as one. -/
theorem execAll_acceptAll_part (hidle : s.frPhase = .idle) (hrunning : s.stopped = false)
    (hne : ∀ c ∈ chunks, c ≠ []) (hroom : s.fill + chunks.flatten.length < 3072) :
    ∃ r, execAll (acceptAll chunks) s = .next { appendRaw chunks.flatten s with returned := r } := by
  induction chunks generalizing s with
  | nil => exact ⟨s.returned, rfl⟩
  | cons c chunks ih =>
    obtain ⟨hc, hchunks⟩ := List.forall_mem_cons.1 hne
    rw [List.flatten_cons, List.length_append, ← Nat.add_assoc] at hroom
    obtain ⟨r, hrest⟩ := ih (s := returning (.accepted .appended) (appendRaw c s)) hidle hrunning hchunks hroom
    refine ⟨r, (execAll_cons (exec_accept_part c hidle hrunning hc (by omega)) _).trans ?_⟩
    rw [List.flatten_cons, ← appendRaw_appendRaw]
    exact hrest

/-- Chunks of which the last fills the block finish it with their first bytes. -/
theorem execAll_acceptAll_whole (hidle : s.frPhase = .idle) (hrunning : s.stopped = false)
    (hne : ∀ c ∈ chunks, c ≠ []) (hpart : s.fill + chunks.dropLast.flatten.length < 3072)
    (hfull : 3072 ≤ s.fill + chunks.flatten.length) :
    execAll (acceptAll chunks) s = .next (finishBlock (appendRaw (chunks.flatten.take (3072 - s.fill)) s)) := by
  obtain rfl | ⟨first, last, rfl⟩ := List.eq_nil_or_concat' chunks
  · exact absurd hpart (Nat.not_lt.2 hfull)
  · rw [List.dropLast_concat] at hpart
    rw [List.flatten_concat] at hfull ⊢
    rw [List.length_append, ← Nat.add_assoc] at hfull
    obtain ⟨r, hfirst⟩ := execAll_acceptAll_part hidle hrunning (fun c hc => hne c (List.mem_append_left _ hc)) hpart
    have hlast := exec_accept_full (s := { appendRaw first.flatten s with returned := r }) last hidle hrunning
      hpart hfull
    have htake : (first.flatten ++ last).take (3072 - s.fill) =
        first.flatten ++ last.take (3072 - (s.fill + first.flatten.length)) := by
      rw [List.take_append, List.take_of_length_le (by omega), Nat.sub_sub]
    rw [acceptAll_append, execAll_append _ _ _ _ hfirst, htake, ← appendRaw_appendRaw]
    exact execAll_cons hlast []

/-- A whole block written from offset 0 decodes alike over any earlier contents (R96, R127). -/
theorem slots_writeBytes_zero {m m' : Memory} (hm : m.wf = true) (hm' : m'.wf = true) {bs : List Byte}
    (hlen : bs.length = 3072) : slots (m.writeBytes 0 bs) = slots (m'.writeBytes 0 bs) := by
  refine slots_congr _ _ fun a ha => ?_
  rw [Memory.read_writeBytes m hm, Memory.read_writeBytes m' hm', if_pos (by omega), if_pos (by omega)]

/-- Settles O24: the chunks fill the block with their first 3072 bytes, which are all that its decode reads. -/
theorem chunkSplitDoesNotMatter : Obligations.ChunkSplitDoesNotMatter := by
  intro chunks s hwf hidle hrunning hempty hne hpart hfull
  have hrun := execAll_acceptAll_whole hidle hrunning hne (by omega) (by omega)
  rw [hempty] at hrun
  have hslots : slots (s.rbuf.writeBytes 0 (chunks.flatten.take 3072)) =
      slots (Memory.writeBytes [] 0 (chunks.flatten.take 3072)) :=
    slots_writeBytes_zero hwf rfl (by rw [List.length_take]; omega)
  refine ⟨_, hrun, ?sink, rfl, rfl, sameFramer_refl s, sameMarks_refl s, sameEnvironment_refl s, rfl⟩
  case sink =>
    simp [finishBlock, unpackLogic, unpackAnalog, hempty, hslots]

end Sys2Proof.Machine
end

section
/-! What an error or a refused chunk changes (60_exceptions.md R119). -/

namespace Sys2Proof.Machine

variable {i : Instr} {s t : State}

/-- A SEND reported with another result than OK is the old state completed with that result: only OK follows a
loaded frame or a counted write. -/
theorem effect_sendDone_of_ne_ok (h : Effect i s t) {r : FrResult} (hr : r ≠ .ok)
    (hreturned : t.returned = some (.sendDone r)) : t = completeSend r s := by
  cases h with
  | sendClosed | sendNoRoom | writeError => cases hreturned; rfl
  | sendEmpty | wroteLast => cases hreturned; exact absurd rfl hr
  | _ => exact nomatch hreturned

/-- An ACCEPT that reports CLOSED or STOPPED took no byte. -/
theorem effect_accepted_nothing (h : Effect i s t) {o : AcceptOutcome} (ho : o = .closed ∨ o = .stopped)
    (hreturned : t.returned = some (.accepted o)) : t = returning (.accepted o) s := by
  cases h with
  | acceptStopped | acceptClosed => cases hreturned; rfl
  | acceptPart | acceptFull => cases hreturned; simp at ho
  | _ => exact nomatch hreturned

/-- Settles O16: an error is a result other than OK, and CLOSED and STOPPED report that no byte was taken. -/
theorem errorsChangeOnlyTheResult : Obligations.ErrorsChangeOnlyTheResult := by
  intro i s t hexec
  refine ⟨fun r hr => ?error, fun o ho => effect_accepted_nothing (exec_effect hexec) ho⟩
  case error =>
    have hne : r ≠ .ok := by rintro rfl; simp at hr
    exact effect_sendDone_of_ne_ok (exec_effect hexec) hne

end Sys2Proof.Machine
end

section
/-! Bytes of the two buffers that no rule has written are never observed (70_reset_and_hazards.md R127): the second
state is the first with other buffers, the fetch reads no buffer, and an operation reads them only where they agree. -/

namespace Sys2Proof.Machine

variable {i : Instr} {s t u s' : State} {fbuf rbuf : Memory}

/-- The same state but for its two buffers. -/
def withBuffers (fbuf rbuf : Memory) (s : State) : State :=
  { s with fbuf := fbuf, rbuf := rbuf }

theorem eq_withBuffers (h : sameObservable s t) : t = withBuffers t.fbuf t.rbuf s := by
  obtain ⟨hrest, -, -⟩ := h
  exact (congrArg (withBuffers t.fbuf t.rbuf) hrest :)

/-- The given buffers agree with those of `s` wherever a rule may read them before it writes them; all four are in
canonical form. -/
structure BuffersAgree (fbuf rbuf : Memory) (s : State) : Prop where
  frame : s.frPhase = .sending → ∀ a < s.len, fbuf.read a = s.fbuf.read a
  block : ∀ a < s.fill, rbuf.read a = s.rbuf.read a
  frameWf : fbuf.wf = true ∧ s.fbuf.wf = true
  blockWf : rbuf.wf = true ∧ s.rbuf.wf = true

theorem sameObservable_withBuffers (h : BuffersAgree fbuf rbuf s) : sameObservable s (withBuffers fbuf rbuf s) :=
  ⟨rfl, h.frame, h.block⟩

/-! ## The fetch -/

/-- What is fetched, in another state. -/
def Fetched.map (g : State → State) : Fetched → Fetched
  | .run i s => .run i (g s)
  | .quiet s => .quiet (g s)

theorem refill_withBuffers (fbuf rbuf : Memory) (s : State) :
    refill (withBuffers fbuf rbuf s) = withBuffers fbuf rbuf (refill s) := by
  cases hin : s.inputs with
  | cons x rest => rw [refill_of_inputs hin, refill_of_inputs (s := withBuffers fbuf rbuf s) hin]
  | nil =>
    cases hlater : s.later with
    | cycle moves =>
      rw [refill_of_cycle hin hlater, refill_of_cycle (s := withBuffers fbuf rbuf s) hin hlater]
      rfl
    | free n =>
      rw [refill_of_free hin hlater, refill_of_free (s := withBuffers fbuf rbuf s) hin hlater]
      rfl

theorem fetchMove_withBuffers (m : Move) (fbuf rbuf : Memory) (s : State) :
    fetchMove m (withBuffers fbuf rbuf s) = (fetchMove m s).map (withBuffers fbuf rbuf) := by
  cases m with
  | request r =>
    cases hdecode : decodeCommand r with
    | ok i => simp only [fetchMove_request hdecode, Fetched.map]
    | error e =>
      simp only [fetchMove_request_refused hdecode, Fetched.map]
      rfl
  | retry place =>
    cases hheld : s.held[place]? with
    | some i =>
      rw [fetchMove_retry_held hheld, fetchMove_retry_held (s := withBuffers fbuf rbuf s) hheld]
      rfl
    | none =>
      have hbeyond := List.getElem?_eq_none_iff.1 hheld
      rw [fetchMove_retry_beyond hbeyond, fetchMove_retry_beyond (s := withBuffers fbuf rbuf s) hbeyond]
      rfl
  | answer r => rfl

/-- The fetch reads no buffer. -/
theorem fetch_withBuffers (fbuf rbuf : Memory) (s : State) :
    fetch (withBuffers fbuf rbuf s) = (fetch s).map (withBuffers fbuf rbuf) := by
  have hinputs : (withBuffers fbuf rbuf (refill s)).inputs = (refill s).inputs := rfl
  simp only [fetch, refill_withBuffers, hinputs]
  cases (refill s).inputs with
  | nil => rfl
  | cons x rest => exact fetchMove_withBuffers x.move fbuf rbuf (takeMove x rest (refill s))

/-- What the fetch leaves of both units for an instruction to run in. -/
theorem fetch_run_sameUnits (h : fetch s = .run i u) : sameFramer s u ∧ sameUnpacker s u := by
  obtain ⟨x, rest, rfl | ⟨place, rfl⟩⟩ := fetch_run_state h <;> simp [sameFramer, sameUnpacker]

theorem fetch_quiet_sameUnits (h : fetch s = .quiet u) : sameFramer s u ∧ sameUnpacker s u := by
  obtain rfl | ⟨x, rest, -, rfl | rfl⟩ := fetch_quiet h <;> simp [sameFramer, sameUnpacker]

theorem buffersAgree_of_sameUnits (h : BuffersAgree fbuf rbuf s) (hunits : sameFramer s u ∧ sameUnpacker s u) :
    BuffersAgree fbuf rbuf u := by
  obtain ⟨⟨hphase, hfbuf, hlen, -⟩, hrbuf, hfill, -⟩ := hunits
  obtain ⟨frame, block, frameWf, blockWf⟩ := h
  rw [← hphase, ← hfbuf, ← hlen] at frame
  rw [← hfill, ← hrbuf] at block
  rw [← hfbuf] at frameWf
  rw [← hrbuf] at blockWf
  exact ⟨frame, block, frameWf, blockWf⟩

/-! ## The operations that read a buffer -/

/-- An answer or an abandoned write lets out bytes of the frame in flight only (R79, R125). -/
theorem pushWire_withBuffers (h : BuffersAgree fbuf rbuf s) (hsending : s.frPhase = .sending) {k : Nat}
    (hk : k ≤ s.len - s.w) : pushWire k (withBuffers fbuf rbuf s) = withBuffers fbuf rbuf (pushWire k s) := by
  have hbytes : fbuf.readBytes s.w k = s.fbuf.readBytes s.w k :=
    Memory.readBytes_congr _ _ _ _ fun a _ ha => h.frame hsending a (by omega)
  exact congrArg (fun bytes => { withBuffers fbuf rbuf s with wire := s.wire ++ bytes }) hbytes

theorem advance_withBuffers (h : BuffersAgree fbuf rbuf s) (hsending : s.frPhase = .sending) {k : Nat}
    (hk : k ≤ s.len - s.w) : advance k (withBuffers fbuf rbuf s) = withBuffers fbuf rbuf (advance k s) := by
  rw [advance, pushWire_withBuffers h hsending hk]
  rfl

theorem abandonWrite_withBuffers (h : BuffersAgree fbuf rbuf s) (hsending : s.frPhase = .sending) :
    abandonWrite (withBuffers fbuf rbuf s) = withBuffers fbuf rbuf (abandonWrite s) :=
  pushWire_withBuffers h hsending (Nat.min_le_right ..)

/-- UNPACK reads a block that was collected whole (R96). -/
theorem unpack_congr {m m' : Memory} {n : Nat} (hfull : n = 3072) (h : ∀ a < n, m.read a = m'.read a) :
    unpackLogic m = unpackLogic m' ∧ unpackAnalog m = unpackAnalog m' := by
  subst hfull
  simp only [unpackLogic, unpackAnalog, slots_congr m m' h, and_self]

/-! ## The operations that write a buffer -/

/-- A run written where two buffers stop agreeing makes them agree up to its end. -/
theorem read_writeBytes_congr {m m' : Memory} (hm : m.wf = true ∧ m'.wf = true) {n : Nat}
    (h : ∀ a < n, m.read a = m'.read a) (bs : List Byte) :
    ∀ a < n + bs.length, (m.writeBytes n bs).read a = (m'.writeBytes n bs).read a := by
  obtain ⟨hwf, hwf'⟩ := hm
  intro a ha
  rw [Memory.read_writeBytes m hwf, Memory.read_writeBytes m' hwf']
  split
  · rfl
  · exact h a (by omega)

/-- A loaded frame is all of the buffer that its SEND will offer (R78). -/
theorem read_loadFrame_congr (h : BuffersAgree fbuf rbuf s) (ws : List Word) :
    ∀ a < (loadFrame ws.length ws s).len,
      (fbuf.writeBytes 0 (frame s.cfg ws)).read a = (loadFrame ws.length ws s).fbuf.read a := by
  intro a ha
  exact read_writeBytes_congr h.frameWf (fun a ha => absurd ha a.not_lt_zero) _ a (by simpa using ha)

theorem taken_withBuffers (m : Nat) (fbuf rbuf : Memory) (s : State) :
    taken m (withBuffers fbuf rbuf s) = taken m s := rfl

/-- The block that an ACCEPT fills is decoded from bytes that were all collected (R97). -/
theorem finishBlock_appendRaw_withBuffers (h : BuffersAgree fbuf rbuf s) {bs : List Byte}
    (hfull : s.fill + bs.length = 3072) :
    finishBlock (appendRaw bs (withBuffers fbuf rbuf s)) =
      withBuffers fbuf (rbuf.writeBytes s.fill bs) (finishBlock (appendRaw bs s)) := by
  obtain ⟨hlogic, hanalog⟩ := unpack_congr hfull (read_writeBytes_congr h.blockWf h.block bs)
  rw [finishBlock, finishBlock, appendRaw_rbuf s, ← hlogic, ← hanalog]
  rfl

/-- The same case of the operation has the same effect with the other buffers, and the next states agree again. -/
theorem exec_withBuffers (heffect : Effect i s s') (h : BuffersAgree fbuf rbuf s) :
    ∃ t', exec i (withBuffers fbuf rbuf s) = .next t' ∧ sameObservable s' t' := by
  obtain ⟨-, hframe, hblock⟩ := sameObservable_withBuffers h
  cases heffect with
  | refusal hbad => exact ⟨_, exec_malformed hbad, rfl, hframe, hblock⟩
  | hold hi hwf hp => exact ⟨_, exec_hold hi hwf hp, rfl, hframe, hblock⟩
  | sendClosed hp ho => exact ⟨_, exec_send_closed _ hp ho, rfl, nofun, hblock⟩
  | sendNoRoom hp ho ha => exact ⟨_, exec_send_noRoom _ hp ho ha, rfl, nofun, hblock⟩
  | sendEmpty hp ho hf ha hl => exact ⟨_, exec_send_empty _ hp ho hf ha hl, rfl, nofun, hblock⟩
  | sendStart hp ho hf ha hl =>
    exact ⟨_, exec_send_start _ hp ho hf ha hl, rfl, fun _ => read_loadFrame_congr h _, hblock⟩
  | noCall hi hp =>
    obtain ⟨k, rfl⟩ | ⟨k, rfl⟩ := hi
    · exact ⟨_, exec_wrote_idle k hp, rfl, hframe, hblock⟩
    · exact ⟨_, exec_error_idle k hp, rfl, hframe, hblock⟩
  | overreport hp hk => exact ⟨_, exec_wrote_over hp hk, rfl, hframe, hblock⟩
  | wroteLast hp hk hw =>
    have hexec := exec_wrote_last (s := withBuffers fbuf rbuf s) hp hk hw
    rw [advance_withBuffers h hp hk] at hexec
    exact ⟨_, hexec, rfl, nofun, hblock⟩
  | wrotePart hp hk hw =>
    have hexec := exec_wrote_part (s := withBuffers fbuf rbuf s) hp hk hw
    rw [advance_withBuffers h hp hk] at hexec
    exact ⟨_, hexec, rfl, hframe, hblock⟩
  | writeError hp => exact ⟨_, exec_error_sending _ hp, rfl, nofun, hblock⟩
  | encode => exact ⟨_, rfl, rfl, hframe, hblock⟩
  | acceptStopped hp hs => exact ⟨_, exec_accept_stopped _ hp hs, rfl, hframe, hblock⟩
  | acceptClosed hp hs => exact ⟨_, exec_accept_closed hp hs, rfl, hframe, hblock⟩
  | acceptPart hp hs hb hf =>
    exact ⟨_, exec_accept_taken_part _ hp hs hb hf, rfl, hframe, read_writeBytes_congr h.blockWf hblock _⟩
  | acceptFull hp hs hb hf =>
    have hexec := exec_accept_taken_full (s := withBuffers fbuf rbuf s) _ hp hs hb hf
    rw [taken_withBuffers, finishBlock_appendRaw_withBuffers h hf] at hexec
    exact ⟨_, hexec, rfl, hframe, nofun⟩
  | unpack hf =>
    obtain ⟨hlogic, hanalog⟩ := unpack_congr hf h.block
    rw [← hlogic, ← hanalog]
    exact ⟨_, exec_unpack_full hf, rfl, hframe, hblock⟩
  | discard hp => exact ⟨_, exec_discard hp, rfl, hframe, nofun⟩
  | stopFirst hp hs => exact ⟨_, exec_stop_first hp hs, rfl, hframe, nofun⟩
  | stopAgain hp hs => exact ⟨_, exec_stop_again hp hs, rfl, hframe, hblock⟩
  | resetIdle hp => exact ⟨_, exec_reset_idle hp, rfl, nofun, nofun⟩
  | resetSending hp =>
    have hexec := exec_reset_sending (s := withBuffers fbuf rbuf s) hp
    rw [abandonWrite_withBuffers h hp] at hexec
    exact ⟨_, hexec, rfl, nofun, nofun⟩

/-- Settles O40: the fetch is the same up to the buffers, and the fetched instruction has the same case. -/
theorem staleBufferBytesAreUnobservable : Obligations.StaleBufferBytesAreUnobservable := by
  intro s t s' hobs hsr htr hsf htf hstep
  have hagree : BuffersAgree t.fbuf t.rbuf s := by
    obtain ⟨-, hframe, hblock⟩ := hobs
    exact ⟨hframe, hblock, ⟨htf, hsf⟩, ⟨htr, hsr⟩⟩
  rw [eq_withBuffers hobs, step, fetch_withBuffers]
  obtain ⟨i, u, hrun, heffect⟩ | hquiet := step_cases hstep
  · rw [hrun]
    exact exec_withBuffers heffect (buffersAgree_of_sameUnits hagree (fetch_run_sameUnits hrun))
  · rw [hquiet]
    exact ⟨_, rfl, sameObservable_withBuffers (buffersAgree_of_sameUnits hagree (fetch_quiet_sameUnits hquiet))⟩

end Sys2Proof.Machine
end

section
/-! Answers that each take a byte end the SEND in flight (70_reset_and_hazards.md R136). -/

namespace Sys2Proof.Machine

/-- Settles O14, by induction on the counts: the first answer over-reports, completes the SEND, or leaves fewer bytes to
the answers after it. -/
theorem nonzeroWritesEndSend : Obligations.NonzeroWritesEndSend := by
  intro counts
  induction counts with
  | nil =>
    intro s hsending hoffer hpos hlength
    simp only [List.length_nil] at hlength
    omega
  | cons k counts ih =>
    intro s hsending hoffer hpos hlength
    obtain ⟨hk, hcounts⟩ := List.forall_mem_cons.1 hpos
    rw [List.length_cons] at hlength
    have hfirst : 1 ≤ s.len - s.w := by omega
    by_cases hover : s.len - s.w < k
    · exact ⟨1, hfirst, _, execAll_cons (exec_wrote_over hsending hover) [], .inr rfl⟩
    have hwithin : k ≤ s.len - s.w := Nat.le_of_not_lt hover
    by_cases hlast : s.w + k = s.len
    · exact ⟨1, hfirst, _, execAll_cons (exec_wrote_last hsending hwithin hlast) [], .inl ⟨rfl, rfl⟩⟩
    obtain ⟨n, hn, t, hrun, hend⟩ := ih (returningNothing (advance k s)) hsending
      (show s.w + k < s.len by omega) hcounts (show s.len - (s.w + k) ≤ counts.length by omega)
    have hshort : n ≤ s.len - (s.w + k) := hn
    exact ⟨n + 1, by omega, t,
      (execAll_cons (exec_wrote_part hsending hwithin hlast) (wroteAll (counts.take n))).trans hrun, hend⟩

end Sys2Proof.Machine
end

section
/-! The hold while SENDING, and what ends SENDING (70_reset_and_hazards.md R130). -/

namespace Sys2Proof.Machine

variable {i : Instr} {s t : State}

/-- Only a request that holds while SENDING joins the waiting ones. -/
theorem effect_held (h : Effect i s t) (hno : holds i = false ∨ s.frPhase = .idle) : t.held = s.held := by
  cases h with
  | hold hi _ hsending =>
    rcases hno with hnot | hidle
    · exact nomatch hi.symm.trans hnot
    · exact nomatch hsending.symm.trans hidle
  | _ => rfl

theorem exec_held (hi : i ≠ .unpack) (hno : holds i = false ∨ s.frPhase = .idle) :
    ∃ t, exec i s = .next t ∧ t.held = s.held := by
  obtain ⟨t, hexec⟩ := exec_next i hi s
  exact ⟨t, hexec, effect_held (exec_effect hexec) hno⟩

theorem effect_ends_sending (h : Effect i s t) (hsending : s.frPhase = .sending) (hidle : t.frPhase = .idle) :
    i = .reset ∨ (∃ k, i = .xferWrote k) ∨ (∃ k, i = .xferError k) := by
  cases h with
  | resetIdle | resetSending => exact .inl rfl
  | wroteLast => exact .inr (.inl ⟨_, rfl⟩)
  | writeError => exact .inr (.inr ⟨_, rfl⟩)
  | sendClosed h | sendNoRoom h | sendEmpty h => exact nomatch hsending.symm.trans h
  | sendStart => exact nomatch hidle
  | _ => exact nomatch hsending.symm.trans hidle

/-- Settles O17: only the effect `hold` makes a request wait, and no effect of a request that holds ends SENDING. -/
theorem requestsHoldWhileSending : Obligations.RequestsHoldWhileSending := by
  refine ⟨fun i s => exec_hold, fun i s hi hidle => ?idle, fun reg val s => ?never,
    fun i s t hexec => effect_ends_sending (exec_effect hexec)⟩
  case idle => exact exec_held (by rintro rfl; cases hi) (.inr hidle)
  case never =>
    obtain ⟨t, hencode, ht⟩ := exec_held (i := .encode reg val) (s := s) nofun (.inl rfl)
    obtain ⟨u, hreset, hu⟩ := exec_held (i := .reset) (s := s) nofun (.inl rfl)
    exact ⟨t, u, hencode, ht, hreset, hu⟩

end Sys2Proof.Machine
end

section
/-! RESET as an equation for the whole next state (70_reset_and_hazards.md R125). -/

namespace Sys2Proof.Machine

/-- Settles O2: the draw within the offer while SENDING, and none while IDLE. -/
theorem resetClearsRegisters : Obligations.ResetClearsRegisters := by
  intro s
  refine ⟨?clears, fun hsending j hj => ?drawn⟩
  case clears =>
    cases hphase : s.frPhase with
    | idle => exact ⟨0, Nat.zero_le _, exec_reset_idle hphase⟩
    | sending => exact ⟨_, Nat.min_le_right .., exec_reset_sending hphase⟩
  case drawn =>
    refine ⟨_, exec_reset_sending (s := { s with env := { s.env with abandoned := j } }) hsending, ?_⟩
    rw [clearRegisters_wire, abandonWrite_wire, Nat.min_eq_left hj]

end Sys2Proof.Machine
end
